-- ==== Sys2Proof/Word.lean ====
section
/-! DEFINITION. The widths of the block's words and fields (30_encoding R70 to R73, 20_memory R51). -/

namespace Sys2Proof

/-- One command word on the command port: always 64 bits (R70). -/
abbrev CommandWord := BitVec 64

/-- A 32-bit entry, counter, Q16.16 estimate or response data field (R51, R73, 10_state). -/
abbrev Word := BitVec 32

/-- A decoder or slot handle, the field `H` (R70). -/
abbrev Handle := BitVec 8

/-- A definition id, the field `DEF` (R71). -/
abbrev DefId := BitVec 8

/-- A register number of READ_REG, the field `REG` (R71). -/
abbrev RegNumber := BitVec 8

/-- A 24-bit field: `COUNT`, `RATE`, `INDEX` (R71). -/
abbrev Field24 := BitVec 24

/-- One signed 16-bit sample as it stands in the word (R71, R72). -/
abbrev SampleBits := BitVec 16

end Sys2Proof
end

