-- ==== Sys2Proof/Config.lean ====
section
/-! DEFINITION. What an implementation fixes: the parameters of 00_scope R6 and the definition records of R7.
The model takes each as a parameter: they are plain data, carried in the field `cfg` of State that no step changes. -/

namespace Sys2Proof

/-- A timecode definition record (R7). Every field is a natural number; which records are legal is R104. -/
structure Definition where
  /-- bit-window width (`bits` in the source) -/
  W : Nat
  /-- nominal wave cycles per second at reference speed (`resolution` in the source) -/
  R : Nat
  /-- behavioural flags, 3 bits (R140) -/
  flags : Nat
  /-- LFSR seed -/
  seed : Nat
  /-- central tap mask -/
  taps : Nat
  /-- sequence length in cycles -/
  length : Nat
  /-- last cycle index inside the guaranteed-decodable region -/
  safe : Nat
  deriving DecidableEq, Repr

/-- The spec's test definition (R8); not a definition of any real medium. -/
def Definition.toy4 : Definition :=
  { W := 4, R := 1, flags := 0, seed := 0x1, taps := 0x2, length := 15, safe := 12 }

/-- What a sentinel lookup does to `valid_counter` (R6, R162). -/
inductive MissPolicy
  | reset
  | decrement
  deriving DecidableEq, Repr

/-- The parameters of R6. -/
structure Config where
  /-- largest bit-window width the table memory holds -/
  wmax : Nat
  /-- number of table slots -/
  ntab : Nat
  /-- number of decoder contexts -/
  ndec : Nat
  /-- the registry `DEFS`, a partial map from definition id to record: the first pair with the id counts -/
  defs : List (DefId × Definition)
  /-- a position is surfaced when `valid_counter` is above this -/
  confirm : Nat
  /-- not alive when `timecode_ticker` is above this -/
  timeout : Nat
  missPolicy : MissPolicy
  /-- `zero_alpha = 2^-zeroShift` -/
  zeroShift : Nat
  /-- `signal_alpha = 2^-signalShift` -/
  signalShift : Nat
  /-- absolute noise floor of the amplitude gate, in sample units -/
  gateFloor : Nat
  gateNum : Nat
  gateShift : Nat
  /-- least interval in samples between two confirmed crossings of one channel -/
  guard : Nat
  bndNum : Nat
  bndDen : Nat
  deriving DecidableEq, Repr

/-- The default column of R6 with the registry given: R6 names no default registry. -/
def Config.default (defs : List (DefId × Definition)) : Config :=
  { wmax := 23, ntab := 2, ndec := 2, defs := defs, confirm := 24, timeout := 4800,
    missPolicy := .reset, zeroShift := 6, signalShift := 6, gateFloor := 128, gateNum := 1,
    gateShift := 2, guard := 4, bndNum := 1, bndDen := 4 }

/-- `DEFS[id]` (R7): `none` where the id is absent. -/
def Config.definition? (cfg : Config) (id : DefId) : Option Definition :=
  cfg.defs.lookup id

end Sys2Proof
end

