-- ==== Sys2Proof/Machine/State.lean ====
section
/-! DEFINITION. Every piece of state the spec gives the block (10_state, 20_memory R50), its two output traces (R35), the
parameters it runs with and the words waiting on its command port; the state at power-on (70_reset R240). -/

namespace Sys2Proof.Machine

/-- Why the model stops with a fault. The block itself never does (60_exceptions R227): its errors are responses. Each
of these names an access the spec gives no meaning to; none can be raised from a state that `State.wellFormed` admits. -/
inductive Fault
  /-- A table read at `(t, i)` with `t ≥ NTAB` or `i ≥ 2^WMAX`, outside the address space of R50. Raised by SAMPLE
  (Resolve) and READ_TABLE. Safe. -/
  | noSuchEntry
  /-- A context bound to a slot `t ≥ NTAB`. Raised by DESTROY. Safe. -/
  | noSuchSlot
  /-- An open window whose handle is no context (`d ≥ NDEC`). Raised by SAMPLE. Safe. -/
  | noSuchContext
  /-- A bound definition id that `DEFS` does not hold. Raised by SAMPLE, GET_SAFE, GET_RESOLUTION and READ_TABLE.
  Safe. -/
  | noDefinition
  deriving DecidableEq, Repr

/-- Why the model takes no step. -/
inductive Refusal
  /-- An instruction that has no meaning yet. Raised by an arm of `exec` only; no arm does. Safe. -/
  | notModelled (mnemonic : String)
  /-- No word is on the command port: "There is no step without a command word" (45_session_submit R200). Raised by
  `step`. Safe. -/
  | noCommand
  deriving DecidableEq, Repr

/-- The status codes (60_exceptions R220), under their names without the `E_`. -/
inductive Status
  | ok
  | unknownDef
  | invalidParam
  | badDefinition
  | resource
  | badHandle
  | busy
  | sequence
  | illegal
  deriving DecidableEq, Repr

/-- A response record (30_encoding R73). -/
structure Response where
  status : Status
  data0 : Word
  data1 : Word
  deriving DecidableEq, Repr

/-- The two channels of a context: `c = 0` primary, `c = 1` secondary (10_state R32). -/
inductive ChannelId
  | primary
  | secondary
  deriving DecidableEq, Repr

/-- A crossing event (41_zero_crossing R128). -/
structure Event where
  decoder : Handle
  channel : ChannelId
  polarity : Bool
  interval : Word
  deriving DecidableEq, Repr

/-- A table-slot descriptor (10_state R21). -/
structure Slot where
  valid : Bool
  defId : DefId
  extRefs : BitVec 16
  decRefs : BitVec 8
  deriving DecidableEq, Repr

/-- A slot at power-on (R21, R240). -/
def Slot.free : Slot := { valid := false, defId := 0, extRefs := 0, decRefs := 0 }

/-- The state of one channel (10_state R32, R33). -/
structure Channel where
  positive : Bool
  swapped : Bool
  /-- signed Q16.16 -/
  zero : Word
  /-- samples since the last confirmed crossing, saturating -/
  crossingTicker : Word
  /-- unsigned Q16.16 -/
  peak : Word
  deriving DecidableEq, Repr

/-- A channel after INIT and CLEAR (R208), and the model's choice at power-on (log entry 6, DESIGN CHOICE). -/
def Channel.initial : Channel :=
  { positive := false, swapped := false, zero := 0, crossingTicker := 0, peak := 0 }

/-- A decoder context (10_state R23 to R33). -/
structure Context where
  inUse : Bool
  defId : DefId
  slot : BitVec 8
  forwards : Bool
  rate : Field24
  /-- unsigned Q16.16 -/
  signalLevel : Word
  /-- unsigned Q16.16 magnitude -/
  pitch : Word
  seenCrossing : Bool
  /-- WMAX bits; WMAX is at most 24 (R6), the bits above it are 0 -/
  bitstream : BitVec 24
  /-- signed -/
  timecode : Word
  validCounter : Word
  timecodeTicker : Word
  /-- `ch[0]` -/
  primary : Channel
  /-- `ch[1]` -/
  secondary : Channel
  deriving DecidableEq, Repr

/-- A context at power-on: not in use (R240); its other fields are unspecified and unobservable, "0 being the simplest"
(R240; log entry 6, DESIGN CHOICE). -/
def Context.unused : Context :=
  { inUse := false, defId := 0, slot := 0, forwards := false, rate := 0, signalLevel := 0, pitch := 0,
    seenCrossing := false, bitstream := 0, timecode := 0, validCounter := 0, timecodeTicker := 0,
    primary := Channel.initial, secondary := Channel.initial }

/-- The submission window, one for the block (10_state R34). -/
structure Window where
  active : Bool
  handle : Handle
  count : Field24
  remaining : Field24
  deriving DecidableEq, Repr

/-- The window at power-on (R34, R240). -/
def Window.closed : Window := { active := false, handle := 0, count := 0, remaining := 0 }

/-- The table memory (20_memory R50): pairs of an entry's flat key and its 32 bits, keys strictly rising, no pair whose
value is the sentinel, which is what an unlisted entry reads as (log entries 7 and 9, DESIGN CHOICE). -/
abbrev Memory := List (Nat × Word)

/-- The state of the block (10_state R20), its output traces (R35), and the model's own fields `cfg` and `port`. -/
structure State where
  /-- the parameters (R6, R20): no state of the block; no step changes them (log entry 1) -/
  cfg : Config
  /-- the words on the command port not yet taken, next first (R70, R200; log entry 3) -/
  port : List CommandWord
  /-- `slot[t]`, `t` in `0 .. NTAB-1` -/
  slots : List Slot
  /-- the table memory -/
  mem : Memory
  /-- decoder contexts, `d` in `0 .. NDEC-1` -/
  ctxs : List Context
  /-- the submission window -/
  sub : Window
  /-- the response trace, oldest first (R35, R73) -/
  responses : List Response
  /-- the event trace, oldest first (R35, R128) -/
  events : List Event
  deriving DecidableEq, Repr

/-- Power-on of a block with the given parameters (70_reset R240, 10_state R41). -/
def State.powerOn (cfg : Config) : State :=
  { cfg := cfg
    port := []
    slots := List.replicate cfg.ntab Slot.free
    mem := []
    ctxs := List.replicate cfg.ndec Context.unused
    sub := Window.closed
    responses := []
    events := [] }

/-- The registry the reset state runs with: R6 leaves it OPEN and names TOY4 for its own vectors (log entry 2,
DESIGN CHOICE). -/
def resetRegistry : List (DefId × Definition) := [(0, Definition.toy4)]

/-- The machine right after reset: power-on with every parameter at the default of R6. -/
def State.reset : State := State.powerOn (Config.default resetRegistry)

end Sys2Proof.Machine
end

