-- ==== Sys2Proof/Machine/Arith.lean ====
section
/-! DEFINITION. The integer primitives of 00_scope R10. Intermediate values are mathematical integers (R9); each is narrowed
where it is written into a register. -/

namespace Sys2Proof.Machine

/-- `mask_W = 2^W - 1` (R9). -/
def mask (W : Nat) : Nat := 2 ^ W - 1

/-- `asr(x, k) = floor(x / 2^k)`: rounds toward minus infinity (R10). -/
def asr (x : Int) (k : Nat) : Int := x / (2 ^ k : Int)

/-- The 1 bits among the `n` least significant bits of `x`. -/
def onesBelow : Nat → Nat → Nat
  | 0, _ => 0
  | n + 1, x => x % 2 + onesBelow n (x / 2)

/-- `parity(x)`: the number of 1 bits of `x`, modulo 2 (R10). -/
def parity (x : Nat) : Nat := onesBelow (x.log2 + 1) x % 2

/-- `sat32(x) = min(x, 2^32 - 1)` (R10). -/
def sat32 (x : Nat) : Word := BitVec.ofNat 32 (min x (2 ^ 32 - 1))

/-- `tc32(x) = x mod 2^32` (R10). -/
def tc32 (x : Int) : Word := BitVec.ofInt 32 x

/-- A truth value as a data field: false = 0, true = 1 (R10). -/
def bit32 (b : Bool) : Word := if b then 1 else 0

/-- `zext_N(v)` into a 32-bit data field (R10, R72). -/
def zext32 {n : Nat} (v : BitVec n) : Word := v.setWidth 32

/-- `sext_16(v)` (R10, R72). -/
def sampleValue (v : SampleBits) : Int := v.toInt

end Sys2Proof.Machine
end

