-- ==== Sys2Proof/Machine/Ops.lean ====
section
/-! DEFINITION. The named operations over State: answering and raising (60_exceptions R221, the one way this block reports an
error), the table memory (20_memory), slots, contexts, channels and the window. -/

namespace Sys2Proof.Machine

/-! ### The response and event ports (R35) -/

/-- `respond(status, data0, data1)` (R11, R73). -/
def State.respond (s : State) (status : Status) (data0 data1 : Word) : State :=
  { s with responses := s.responses ++ [{ status := status, data0 := data0, data1 := data1 }] }

/-- `emit_event`, for the events of a frame in their order (R11, R128). -/
def State.emit (s : State) (evs : List Event) : State :=
  { s with events := s.events ++ evs }

/-- The number a status has on the response port (R220). -/
def statusCode : Status → BitVec 8
  | .ok => 0x00
  | .unknownDef => 0x01
  | .invalidParam => 0x02
  | .badDefinition => 0x03
  | .resource => 0x04
  | .badHandle => 0x05
  | .busy => 0x06
  | .sequence => 0x07
  | .illegal => 0x08

/-- The outcome of one step of this machine. -/
abbrev Result := Host.Outcome State Fault Refusal

/-- `raise E_X` on the state before the command: the response `(E_X, 0, 0)` and no other change (R11, R221). This is the
whole of error entry: no trap, no saved state, no transfer of control (R227), and so no return (R228). -/
def raise (s : State) (e : Status) : Result := .next (s.respond e 0 0)

/-- End a command with `respond(OK, data0, data1)`. -/
def answer (s : State) (data0 data1 : Word) : Result := .next (s.respond .ok data0 data1)

/-! ### The table memory (R50 to R57) -/

/-- The sentinel -1 (R51), and what an entry that is not listed reads as (log entry 7). -/
def sentinel : Word := 0xFFFFFFFF

/-- The entry at a key. -/
def Memory.read : Memory → Nat → Word
  | [], _ => sentinel
  | (a, v) :: m, k => if a = k then v else Memory.read m k

/-- Write the entry at a key, keeping the keys rising and no sentinel listed. -/
def Memory.write : Memory → Nat → Word → Memory
  | [], k, v => if v = sentinel then [] else [(k, v)]
  | (a, w) :: m, k, v =>
    if k < a then (if v = sentinel then (a, w) :: m else (k, v) :: (a, w) :: m)
    else if k = a then (if v = sentinel then m else (k, v) :: m)
    else (a, w) :: Memory.write m k v

/-- The canonical form: keys strictly rising, no sentinel listed. -/
def Memory.wf : Memory → Bool
  | [] => true
  | [(_, v)] => v != sentinel
  | (a, v) :: (b, w) :: m => decide (a < b) && v != sentinel && Memory.wf ((b, w) :: m)

/-- The flat key of entry `(t, i)`; distinct pairs of the address space of R50 have distinct keys (log entry 9). -/
def entryKey (cfg : Config) (t i : Nat) : Nat := t * 2 ^ cfg.wmax + i

/-- `(t, i)` is in the address space (R50). -/
def entryExists (cfg : Config) (t i : Nat) : Bool :=
  decide (t < cfg.ntab) && decide (i < 2 ^ cfg.wmax)

/-- The 32 bits of entry `(t, i)`. -/
def State.entry (s : State) (t i : Nat) : Word := Memory.read s.mem (entryKey s.cfg t i)

/-- `MemRead(t, i)` (R11, R56): `none` where there is no such entry. -/
def State.memRead (s : State) (t i : Nat) : Option Word :=
  if entryExists s.cfg t i then some (s.entry t i) else none

/-- `MemWrite(t, i, T[i])` for every `i` in `0 .. 2^W-1`, in that order (R103, R106). -/
def writeTable (cfg : Config) (mem : Memory) (t W : Nat) (T : List Int) : Memory :=
  (List.range (2 ^ W)).foldl (fun m i => Memory.write m (entryKey cfg t i) (tc32 (T.getD i (-1)))) mem

/-! ### Slots, contexts, the window -/

/-- `slot[t]`; a number that is no slot reads as a free one. -/
def State.slotAt (s : State) (t : Nat) : Slot := s.slots.getD t Slot.free

/-- Write `slot[t]`. -/
def State.setSlot (s : State) (t : Nat) (sl : Slot) : State :=
  { s with slots := s.slots.set t sl }

/-- The table memory replaced. -/
def State.setMem (s : State) (m : Memory) : State := { s with mem := m }

/-- Context `d`, if there is one (R23). -/
def State.context? (s : State) (d : Handle) : Option Context :=
  if d.toNat < s.cfg.ndec then s.ctxs[d.toNat]? else none

/-- Write context `d`. -/
def State.setContext (s : State) (d : Nat) (c : Context) : State :=
  { s with ctxs := s.ctxs.set d c }

/-- Write the submission window. -/
def State.setSub (s : State) (w : Window) : State := { s with sub := w }

/-- `d.ch[c]` (R32). -/
def Context.channel (d : Context) : ChannelId → Channel
  | .primary => d.primary
  | .secondary => d.secondary

/-- Write `d.ch[c]`. -/
def Context.setChannel (d : Context) (c : ChannelId) (ch : Channel) : Context :=
  match c with
  | .primary => { d with primary := ch }
  | .secondary => { d with secondary := ch }

/-- The least slot that is free, as AcquireTable takes it (R106, D7). -/
def State.freeSlot? (s : State) : Option Nat := s.slots.findIdx? (fun sl => !sl.valid)

/-- The slot that holds the table of `id` (R106); at most one does (R22). -/
def State.builtSlot? (s : State) (id : DefId) : Option Nat :=
  s.slots.findIdx? (fun sl => sl.valid && sl.defId == id)

/-- The least context that is free, as INIT takes it (R201, D7). -/
def State.freeContext? (s : State) : Option Nat := s.ctxs.findIdx? (fun d => !d.inUse)

end Sys2Proof.Machine
end

