-- ==== Sys2Proof/Machine/Flags.lean ====
section
/-! DEFINITION. The states that are functions of flags and counters, not registers: liveness (10_state R36, 44 R180) and the
zero-crossing state of a channel (R37). -/

namespace Sys2Proof.Machine

/-- The liveness states (R36). -/
inductive Liveness
  | searching
  | alive
  | lost
  deriving DecidableEq, Repr

/-- The liveness state of a context (R36). -/
def liveness (cfg : Config) (d : Context) : Liveness :=
  if cfg.timeout < d.timecodeTicker.toNat then .lost
  else if cfg.confirm < d.validCounter.toNat then .alive
  else .searching

/-- READ_REG's encoding of the liveness state (R36, R38). -/
def livenessCode : Liveness → Word
  | .searching => 0
  | .alive => 1
  | .lost => 2

/-- `d` is alive: `valid_counter > CONFIRM` and `timecode_ticker ≤ TIMEOUT` (R180). -/
def isAlive (cfg : Config) (d : Context) : Bool :=
  decide (cfg.confirm < d.validCounter.toNat) && decide (d.timecodeTicker.toNat ≤ cfg.timeout)

/-- The zero-crossing states of a channel (R37). -/
inductive Crossing
  | idle
  | armedPositive
  | armedNegative
  deriving DecidableEq, Repr

/-- The zero-crossing state of a channel (R37). -/
def crossingState (ch : Channel) : Crossing :=
  if ch.swapped then .idle
  else if ch.positive then .armedPositive
  else .armedNegative

/-- READ_REG's encoding of the zero-crossing state (R37, R38). -/
def crossingCode : Crossing → Word
  | .idle => 0
  | .armedPositive => 1
  | .armedNegative => 2

end Sys2Proof.Machine
end

