-- ==== Sys2Proof/Machine/Operands.lean ====
section
/-! DEFINITION. What a command's operands name: the window check every command passes first (45_session_submit R200), the
handle checks (44 R183, 40 R107, R108), the bound definition (R11), and the register numbers of READ_REG (10_state R38).
Each check takes the rest of the command as a continuation; where it fails, the command raises and the rest is not run. -/

namespace Sys2Proof.Machine

/-- `if sub.active = 1 and OPC != SAMPLE: raise E_BUSY` (R200, R206). -/
def outsideWindow (s : State) (k : Result) : Result :=
  if s.sub.active then raise s .busy else k

/-- `if sub.active = 0 and OPC = SAMPLE: raise E_SEQUENCE` (R200). -/
def insideWindow (s : State) (k : Result) : Result :=
  if s.sub.active then k else raise s .sequence

/-- `CheckDecoder(d)` (R183): `d ≥ NDEC` or `d.in_use = 0` raises E_BAD_HANDLE. -/
def withDecoder (s : State) (d : Handle) (k : Context → Result) : Result :=
  match s.context? d with
  | some c => if c.inUse then k c else raise s .badHandle
  | none => raise s .badHandle

/-- The slot-handle check (R57, R107, R108): `t ≥ NTAB` or `slot[t].valid = 0` raises E_BAD_HANDLE. -/
def withBuiltSlot (s : State) (t : Handle) (k : Slot → Result) : Result :=
  if t.toNat < s.cfg.ntab && (s.slotAt t.toNat).valid then k (s.slotAt t.toNat)
  else raise s .badHandle

/-- `DEFS[id]` for an id that is bound (R11's `DEF(d)`, R108). A bound id is always in `DEFS`; where it is not, the model
stops (log entry 10). -/
def withDefinition (s : State) (id : DefId) (k : Definition → Result) : Result :=
  match s.cfg.definition? id with
  | some D => k D
  | none => .fault .noDefinition

/-- One register of a channel, by its offset from `0x10 + 8·c` (R38). -/
def channelRegister (ch : Channel) : Nat → Option Word
  | 0 => some (bit32 ch.positive)
  | 1 => some (bit32 ch.swapped)
  | 2 => some ch.zero
  | 3 => some ch.crossingTicker
  | 4 => some ch.peak
  | 5 => some (crossingCode (crossingState ch))
  | _ => none

/-- The value of register `reg` of a context as READ_REG returns it (R38); `none` where the number is reserved. -/
def registerValue (cfg : Config) (d : Context) (reg : RegNumber) : Option Word :=
  match reg.toNat with
  | 0x00 => some (zext32 d.defId)
  | 0x01 => some (zext32 d.slot)
  | 0x02 => some (bit32 d.forwards)
  | 0x03 => some (zext32 d.rate)
  | 0x04 => some d.signalLevel
  | 0x05 => some d.pitch
  | 0x06 => some (bit32 d.seenCrossing)
  | 0x07 => some (zext32 d.bitstream)
  | 0x08 => some d.timecode
  | 0x09 => some d.validCounter
  | 0x0A => some d.timecodeTicker
  | 0x0B => some (livenessCode (liveness cfg d))
  | 0x10 => channelRegister d.primary 0
  | 0x11 => channelRegister d.primary 1
  | 0x12 => channelRegister d.primary 2
  | 0x13 => channelRegister d.primary 3
  | 0x14 => channelRegister d.primary 4
  | 0x15 => channelRegister d.primary 5
  | 0x18 => channelRegister d.secondary 0
  | 0x19 => channelRegister d.secondary 1
  | 0x1A => channelRegister d.secondary 2
  | 0x1B => channelRegister d.secondary 3
  | 0x1C => channelRegister d.secondary 4
  | 0x1D => channelRegister d.secondary 5
  | _ => none

end Sys2Proof.Machine
end

