-- ==== Sys2Proof/Machine/Queries.lean ====
section
/-! DEFINITION. The pitch register and the queries: SET_PITCH, GET_PITCH, GET_POSITION, GET_ALIVE, GET_SAFE, GET_RESOLUTION,
READ_REG (44_liveness_queries R181 to R189). -/

namespace Sys2Proof.Machine

/-- SET_PITCH (R184). -/
def execSetPitch (d : Handle) (pitch : Word) (s : State) : Result :=
  outsideWindow s <|
    withDecoder s d fun c =>
      if pitch.getLsbD 31 then raise s .invalidParam
      else answer (s.setContext d.toNat { c with pitch := pitch }) 0 0

/-- The signed pitch GET_PITCH returns, before it is encoded (R185). -/
def signedPitch (c : Context) : Int :=
  if !c.seenCrossing then 0
  else if c.forwards then (c.pitch.toNat : Int)
  else -(c.pitch.toNat : Int)

/-- GET_PITCH (R185). -/
def execGetPitch (d : Handle) (s : State) : Result :=
  outsideWindow s <|
    withDecoder s d fun c => answer s (tc32 (signedPitch c)) 0

/-- GET_POSITION (R186). -/
def execGetPosition (d : Handle) (s : State) : Result :=
  outsideWindow s <|
    withDecoder s d fun c =>
      if isAlive s.cfg c then answer s c.timecode c.timecodeTicker
      else answer s 0xFFFFFFFF 0

/-- GET_ALIVE (R181). -/
def execGetAlive (d : Handle) (s : State) : Result :=
  outsideWindow s <|
    withDecoder s d fun c => answer s (bit32 (isAlive s.cfg c)) 0

/-- GET_SAFE (R187). -/
def execGetSafe (d : Handle) (s : State) : Result :=
  outsideWindow s <|
    withDecoder s d fun c =>
      withDefinition s c.defId fun D => answer s (BitVec.ofNat 32 D.safe) 0

/-- GET_RESOLUTION (R188). -/
def execGetResolution (d : Handle) (s : State) : Result :=
  outsideWindow s <|
    withDecoder s d fun c =>
      withDefinition s c.defId fun D => answer s (BitVec.ofNat 32 D.R) 0

/-- READ_REG (R189). -/
def execReadReg (d : Handle) (reg : RegNumber) (s : State) : Result :=
  outsideWindow s <|
    withDecoder s d fun c =>
      match registerValue s.cfg c reg with
      | none => raise s .invalidParam
      | some v => answer s v 0

end Sys2Proof.Machine
end

