-- ==== Sys2Proof/Machine/BitExtractor.lean ====
section
/-! DEFINITION. The dual-channel phase bit extractor, stage 2 of SAMPLE (42_bit_extractor R140 to R147). -/

namespace Sys2Proof.Machine

/-- `SWITCH_PHASE`, flag 0: inverts the direction sense (R140). -/
def switchPhase (D : Definition) : Bool := D.flags.testBit 0
/-- `SWITCH_PRIMARY`, flag 1: the second sample is the primary channel (R140). -/
def switchPrimary (D : Definition) : Bool := D.flags.testBit 1
/-- `SWITCH_POLARITY`, flag 2: bits are read while the primary is negative (R140). -/
def switchPolarity (D : Definition) : Bool := D.flags.testBit 2

/-- `vp`, the primary's sample of a frame (R141). -/
def primarySample (D : Definition) (s0 s1 : SampleBits) : Int :=
  sampleValue (if switchPrimary D then s1 else s0)

/-- `vs`, the secondary's sample of a frame (R141). -/
def secondarySample (D : Definition) (s0 s1 : SampleBits) : Int :=
  sampleValue (if switchPrimary D then s0 else s1)

/-- The direction a crossing shows: the primary's test decides where both channels crossed (R142, R143). -/
def sensedForwards (D : Definition) (xp : Bool) (d : Context) : Bool :=
  let f := if xp then d.primary.positive != d.secondary.positive
           else d.primary.positive == d.secondary.positive
  if switchPhase D then !f else f

/-- `Direction(d, xp, xs)` (R143); a change of direction resets `valid_counter` (R144). -/
def direction (D : Definition) (xp xs : Bool) (d : Context) : Context :=
  if !xp && !xs then d
  else
    let f := sensedForwards D xp d
    if f != d.forwards then { d with seenCrossing := true, forwards := f, validCounter := 0 }
    else { d with seenCrossing := true }

/-- A bit is read on this frame (R145). -/
def bitRead (D : Definition) (xs : Bool) (d : Context) : Bool :=
  xs && (d.primary.positive == !switchPolarity D)

/-- The pitch the classifier uses: 1.0 where the register is 0 (R147). -/
def classifierPitch (d : Context) : Nat :=
  if d.pitch = 0 then 2 ^ 16 else d.pitch.toNat

/-- `Classify(d)` (R146), in exact integers. -/
def classify (cfg : Config) (D : Definition) (d : Context) : Bool :=
  let T : Int := d.primary.crossingTicker.toNat
  let p : Int := classifierPitch d
  let r : Int := d.rate.toNat
  let R : Int := D.R
  let num : Int := cfg.bndNum
  let den : Int := cfg.bndDen
  if d.forwards then decide (T * R * p * den > num * r * 2 ^ 16)
  else decide (2 * T * R * p * den < (den - 2 * num) * r * 2 ^ 16)

end Sys2Proof.Machine
end

