-- ==== Sys2Proof/Machine/Resolver.lean ====
section
/-! DEFINITION. The shift register, table lookup and validity tracker, stage 3 of SAMPLE (43_resolver R160 to R166). -/

namespace Sys2Proof.Machine

/-- The window after a bit is shifted in (R160). -/
def shiftIn (D : Definition) (forwards b : Bool) (window : Nat) : Nat :=
  if forwards then (window >>> 1) ||| (b.toNat <<< (D.W - 1))
  else ((window <<< 1) &&& mask D.W) ||| b.toNat

/-- What a miss makes of `valid_counter` (R162). -/
def missCount (policy : MissPolicy) (count : Word) : Word :=
  match policy with
  | .reset => 0
  | .decrement => BitVec.ofNat 32 (count.toNat - 1)

/-- The counters after a lookup that answered `r` (R162, R163; the continuity offset is 0, R164). -/
def track (policy : MissPolicy) (r : Word) (d : Context) : Context :=
  if r = sentinel then { d with validCounter := missCount policy d.validCounter }
  else { d with timecode := r, timecodeTicker := 0, validCounter := sat32 (d.validCounter.toNat + 1) }

/-- `Tick(d)` (R165). -/
def tick (cfg : Config) (d : Context) : Context :=
  let ticker := sat32 (d.timecodeTicker.toNat + 1)
  { d with
    timecodeTicker := ticker
    validCounter := if cfg.timeout < ticker.toNat then 0 else d.validCounter }

/-- `Resolve(d, b)` (R166): `none` where the lookup names no entry, which R161 excludes. -/
def resolve (s : State) (D : Definition) (b : Bool) (d : Context) : Option Context :=
  let d' := { d with bitstream := BitVec.ofNat 24 (shiftIn D d.forwards b d.bitstream.toNat) }
  match s.memRead d.slot.toNat d'.bitstream.toNat with
  | none => none
  | some r => some (track s.cfg.missPolicy r d')

end Sys2Proof.Machine
end

