-- ==== Sys2Proof/Machine/Lfsr.lean ====
section
/-! DEFINITION. The LFSR, the build of a table, and the legality of a definition (40_table_builder R100 to R104). -/

namespace Sys2Proof.Machine

/-- `fwd(s, D)` (R100): one shift toward bit 0, the parity of the tapped bits entering at bit `W-1`; bit 0 always tapped. -/
def fwd (D : Definition) (s : Nat) : Nat :=
  (s >>> 1) ||| (parity (s &&& ((D.taps ||| 1) &&& mask D.W)) <<< (D.W - 1))

/-- `rev(s', D)`, the inverse of `fwd` (R101). -/
def rev (D : Definition) (s : Nat) : Nat :=
  let low := s &&& mask (D.W - 1)
  (low <<< 1) ||| (((s >>> (D.W - 1)) &&& 1) ^^^ parity (low &&& (D.taps >>> 1) &&& mask (D.W - 1)))

/-- `s_n`: the LFSR state after `n` steps from the seed (R167). -/
def lfsrState (D : Definition) : Nat → Nat
  | 0 => D.seed
  | n + 1 => fwd D (lfsrState D n)

/-- The loop of `Build(D)` (R102) with `k` steps to go, at step `n` and state `s`: `none` is FAIL. -/
def buildFrom (D : Definition) : Nat → Nat → Nat → List Int → Option (List Int)
  | 0, _, _, T => some T
  | k + 1, n, s, T =>
    if T.getD s (-1) ≠ -1 then none
    else buildFrom D k (n + 1) (fwd D s) (T.set s (n : Int))

/-- `Build(D)` (R102): the table of `2^W` entries, -1 the sentinel, or `none` where the sequence repeats. -/
def build (D : Definition) : Option (List Int) :=
  buildFrom D D.length 0 D.seed (List.replicate (2 ^ D.W) (-1))

/-- The checks of R104 other than the Build check. -/
def fieldsLegal (cfg : Config) (D : Definition) : Bool :=
  decide (2 ≤ D.W) && decide (D.W ≤ cfg.wmax)
    && decide (1 ≤ D.seed) && decide (D.seed ≤ mask D.W)
    && decide (D.taps ≤ mask D.W)
    && decide (1 ≤ D.length) && decide (D.length ≤ 2 ^ D.W - 1)
    && decide (D.safe < D.length)
    && decide (1 ≤ D.R) && decide (D.R ≤ 2 ^ 32 - 1)
    && decide (D.flags ≤ 7)

/-- A definition record is legal (R104). -/
def definitionLegal (cfg : Config) (D : Definition) : Bool :=
  fieldsLegal cfg D && (build D).isSome

end Sys2Proof.Machine
end

