-- ==== Sys2Proof/Machine/TableBuilder.lean ====
section
/-! DEFINITION. The sequence table builder's commands: BUILD_LOOKUP, FREE_LOOKUP, READ_TABLE, and the shared AcquireTable and
ReleaseIfUnused (40_table_builder R105 to R109). -/

namespace Sys2Proof.Machine

/-- Who takes a reference to a table: BUILD_LOOKUP (`EXT`) or a decoder context (`DEC`) (R106). -/
inductive RefKind
  | ext
  | dec
  deriving DecidableEq, Repr

/-- Take a reference to a table that is built (R106, first branch). -/
def addReference (kind : RefKind) (sl : Slot) : Except Status Slot :=
  match kind with
  | .ext => if sl.extRefs = 0xFFFF then .error .resource else .ok { sl with extRefs := sl.extRefs + 1 }
  | .dec => .ok { sl with decRefs := sl.decRefs + 1 }

/-- The descriptor of a freshly built slot (R106, last lines). -/
def freshSlot (kind : RefKind) (id : DefId) : Slot :=
  match kind with
  | .ext => { valid := true, defId := id, extRefs := 1, decRefs := 0 }
  | .dec => { valid := true, defId := id, extRefs := 0, decRefs := 1 }

/-- `AcquireTable(id, kind)` (R106): the state after, the slot, and `fresh`; or the status it raises. Its checks come in
the order of R223. -/
def acquireTable (s : State) (kind : RefKind) (id : DefId) : Except Status (State × Nat × Bool) :=
  match s.cfg.definition? id with
  | none => .error .unknownDef
  | some D =>
    match s.builtSlot? id with
    | some t =>
      match addReference kind (s.slotAt t) with
      | .error e => .error e
      | .ok sl => .ok (s.setSlot t sl, t, false)
    | none =>
      if !fieldsLegal s.cfg D then .error .badDefinition
      else
        match s.freeSlot? with
        | none => .error .resource
        | some t =>
          match build D with
          | none => .error .badDefinition
          | some T =>
            .ok ((s.setMem (writeTable s.cfg s.mem t D.W T)).setSlot t (freshSlot kind id), t, true)

/-- `ReleaseIfUnused(t)` on the slot's descriptor (R109). -/
def releaseIfUnused (sl : Slot) : Slot :=
  if sl.extRefs = 0 ∧ sl.decRefs = 0 then { sl with valid := false } else sl

/-- BUILD_LOOKUP (R105). -/
def execBuildLookup (id : DefId) (s : State) : Result :=
  outsideWindow s <|
    match acquireTable s .ext id with
    | .error e => raise s e
    | .ok (s', t, fresh) => answer s' (BitVec.ofNat 32 t) (bit32 fresh)

/-- FREE_LOOKUP (R107). -/
def execFreeLookup (t : Handle) (s : State) : Result :=
  outsideWindow s <|
    withBuiltSlot s t fun sl =>
      if sl.extRefs = 0 then raise s .badHandle
      else
        let sl' := releaseIfUnused { sl with extRefs := sl.extRefs - 1 }
        answer (s.setSlot t.toNat sl') (bit32 sl'.valid) 0

/-- READ_TABLE (R108). -/
def execReadTable (t : Handle) (index : Field24) (s : State) : Result :=
  outsideWindow s <|
    withBuiltSlot s t fun sl =>
      withDefinition s sl.defId fun D =>
        if 2 ^ D.W ≤ index.toNat then raise s .invalidParam
        else
          match s.memRead t.toNat index.toNat with
          | none => .fault .noSuchEntry
          | some v => answer s v 0

end Sys2Proof.Machine
end

