-- ==== Sys2Proof/Machine/ZeroCrossing.lean ====
section
/-! DEFINITION. The adaptive zero-crossing detector, stage 1 of SAMPLE (41_zero_crossing R120 to R128). -/

namespace Sys2Proof.Machine

/-- `dev = v · 2^16 - zero` (R121). -/
def deviation (v : Int) (ch : Channel) : Int := v * 2 ^ 16 - ch.zero.toInt

/-- `cand`: the sample lies strictly on the other side of the zero-level (R122). -/
def candidate (ch : Channel) (dev : Int) : Bool :=
  (!ch.positive && decide (0 < dev)) || (ch.positive && decide (dev < 0))

/-- `thr`, the amplitude gate's threshold (R123). -/
def gateThreshold (cfg : Config) (signalLevel : Word) : Nat :=
  max (cfg.gateFloor * 2 ^ 16) ((signalLevel.toNat * cfg.gateNum) >>> cfg.gateShift)

/-- `xing`: the sample confirms a crossing (R126). -/
def confirms (cfg : Config) (signalLevel : Word) (ch : Channel) (v : Int) : Bool :=
  candidate ch (deviation v ch) && decide (gateThreshold cfg signalLevel < ch.peak.toNat) && !ch.swapped

/-- The interval a confirmed crossing reports (R126, R128). -/
def crossingInterval (ch : Channel) : Word := sat32 (ch.crossingTicker.toNat + 1)

/-- The flags, ticker and peak after a sample that confirms (R126, R127). -/
def crossed (cfg : Config) (ch : Channel) (v : Int) : Channel :=
  { ch with
    positive := !ch.positive
    crossingTicker := 0
    swapped := decide (1 < cfg.guard)
    peak := BitVec.ofNat 32 (deviation v ch).natAbs }

/-- The flags, ticker and peak after a sample that does not confirm (R126, R127). -/
def held (cfg : Config) (ch : Channel) (v : Int) : Channel :=
  let ticker := sat32 (ch.crossingTicker.toNat + 1)
  { ch with
    crossingTicker := ticker
    peak := BitVec.ofNat 32 (max ch.peak.toNat (deviation v ch).natAbs)
    swapped := ch.swapped && !decide (cfg.guard ≤ ticker.toNat + 1) }

/-- The zero-level update (R124). -/
def smoothZero (cfg : Config) (zero : Word) (v : Int) : Word :=
  tc32 (zero.toInt + asr (v * 2 ^ 16 - zero.toInt) cfg.zeroShift)

/-- The signal-level update (R125). -/
def smoothSignal (cfg : Config) (signalLevel : Word) (adev : Nat) : Word :=
  tc32 (signalLevel.toNat + asr ((adev : Int) - signalLevel.toNat) cfg.signalShift)

/-- The channel after one sample (R126). -/
def channelAfter (cfg : Config) (signalLevel : Word) (ch : Channel) (v : Int) : Channel :=
  let ch' := if confirms cfg signalLevel ch v then crossed cfg ch v else held cfg ch v
  { ch' with zero := smoothZero cfg ch.zero v }

/-- `ZC(d, c, v)` (R126): the context after one sample of one channel, and the crossing event where it confirmed one. -/
def zeroCross (cfg : Config) (h : Handle) (c : ChannelId) (v : Int) (d : Context) : Context × Option Event :=
  let ch := d.channel c
  let d' := d.setChannel c (channelAfter cfg d.signalLevel ch v)
  ({ d' with signalLevel := smoothSignal cfg d.signalLevel (deviation v ch).natAbs },
    if confirms cfg d.signalLevel ch v then
      some { decoder := h, channel := c, polarity := !ch.positive, interval := crossingInterval ch }
    else none)

end Sys2Proof.Machine
end

