-- ==== Sys2Proof/Machine/Session.lean ====
section
/-! DEFINITION. Decoder sessions and sample submission: INIT, CLEAR, DESTROY, SUBMIT, SAMPLE and the frame pipeline
(45_session_submit R201 to R208). -/

namespace Sys2Proof.Machine

/-- `ResetAdaptive(d)` (R208): the binding, `in_use` and `rate` are kept. -/
def resetAdaptive (d : Context) : Context :=
  { d with
    forwards := true
    signalLevel := 0
    pitch := 0
    seenCrossing := false
    bitstream := 0
    timecode := sentinel
    validCounter := 0
    timecodeTicker := 0
    primary := Channel.initial
    secondary := Channel.initial }

/-- The context INIT creates (R201): every field is written (R242). -/
def boundContext (id : DefId) (t : Nat) : Context :=
  resetAdaptive
    { Context.unused with inUse := true, defId := id, slot := BitVec.ofNat 8 t, rate := 0 }

/-- INIT (R201). -/
def execInit (id : DefId) (s : State) : Result :=
  outsideWindow s <|
    match s.cfg.definition? id with
    | none => raise s .unknownDef
    | some _ =>
      match s.freeContext? with
      | none => raise s .resource
      | some d =>
        match acquireTable s .dec id with
        | .error e => raise s e
        | .ok (s', t, _) =>
          answer (s'.setContext d (boundContext id t))
            (BitVec.ofNat 32 d) (BitVec.ofNat 32 t)

/-- CLEAR (R202). -/
def execClear (d : Handle) (s : State) : Result :=
  outsideWindow s <|
    withDecoder s d fun c => answer (s.setContext d.toNat (resetAdaptive c)) 0 0

/-- DESTROY (R203). A context in use is bound to a slot that exists; where it is not, the model stops (log entry 10). -/
def execDestroy (d : Handle) (s : State) : Result :=
  outsideWindow s <|
    withDecoder s d fun c =>
      if s.cfg.ntab ≤ c.slot.toNat then .fault .noSuchSlot
      else
        let sl := s.slotAt c.slot.toNat
        let sl' := releaseIfUnused { sl with decRefs := sl.decRefs - 1 }
        answer ((s.setSlot c.slot.toNat sl').setContext d.toNat { c with inUse := false }) (bit32 sl'.valid) 0

/-- SUBMIT (R204): an empty submission answers at once, any other opens the window and answers nothing. -/
def execSubmit (d : Handle) (count rate : Field24) (s : State) : Result :=
  outsideWindow s <|
    withDecoder s d fun c =>
      if rate = 0 then raise s .invalidParam
      else if count = 0 then answer (s.setContext d.toNat { c with rate := rate }) 0 0
      else
        .next ((s.setContext d.toNat { c with rate := rate }).setSub
          { active := true, handle := d, count := count, remaining := count })

/-- `Frame(d, S0, S1)` (R207): the context after one frame and the events it emits, primary first. It reads the state
for the parameters and the table memory only. -/
def frame (s : State) (h : Handle) (s0 s1 : SampleBits) (d : Context) : Except Fault (Context × List Event) :=
  match s.cfg.definition? d.defId with
  | none => .error .noDefinition
  | some D =>
    let p := zeroCross s.cfg h .primary (primarySample D s0 s1) d
    let q := zeroCross s.cfg h .secondary (secondarySample D s0 s1) p.1
    let d' := tick s.cfg (direction D p.2.isSome q.2.isSome q.1)
    let evs := p.2.toList ++ q.2.toList
    if bitRead D q.2.isSome d' then
      match resolve s D (classify s.cfg D d') d' with
      | none => .error .noSuchEntry
      | some d'' => .ok (d'', evs)
    else .ok (d', evs)

/-- The window after one frame of it (R205). -/
def countFrame (w : Window) : Window :=
  { w with remaining := w.remaining - 1, active := w.remaining - 1 != 0 }

/-- The end of SAMPLE (R205): the last frame of the window answers for the whole submission. -/
def endFrame (s : State) : Result :=
  let s' := s.setSub (countFrame s.sub)
  if s'.sub.active then .next s' else answer s' (zext32 s'.sub.count) 0

/-- SAMPLE (R205). -/
def execSample (s0 s1 : SampleBits) (s : State) : Result :=
  insideWindow s <|
    match s.context? s.sub.handle with
    | none => .fault .noSuchContext
    | some d =>
      match frame s s.sub.handle s0 s1 d with
      | .error f => .fault f
      | .ok (d', evs) => endFrame ((s.setContext s.sub.handle.toNat d').emit evs)

end Sys2Proof.Machine
end

