-- ==== Sys2Proof/Syntax.lean ====
section
/-! DEFINITION. The 15 commands of opcode_table.json, one constructor each, with their operand fields (30_encoding R71, R74). -/

namespace Sys2Proof

/-- A decoded command. Operands keep the width of their field, so every term is an encodable command. -/
inductive Instr
  | buildLookup (id : DefId)
  | freeLookup (t : Handle)
  | init (id : DefId)
  | clear (d : Handle)
  | destroy (d : Handle)
  | submit (d : Handle) (count rate : Field24)
  | sample (s0 s1 : SampleBits)
  | setPitch (d : Handle) (pitch : Word)
  | getPitch (d : Handle)
  | getPosition (d : Handle)
  | getAlive (d : Handle)
  | getSafe (d : Handle)
  | getResolution (d : Handle)
  | readTable (t : Handle) (index : Field24)
  | readReg (d : Handle) (reg : RegNumber)
  deriving DecidableEq, Repr

/-- The 15 legal opcodes (R74). -/
inductive Opcode
  | buildLookup | freeLookup | init | clear | destroy | submit | sample | setPitch
  | getPitch | getPosition | getAlive | getSafe | getResolution | readTable | readReg
  deriving DecidableEq, Repr

/-- The operand formats (R71). -/
inductive Format
  | N | D | S | X | P | I | G
  deriving DecidableEq, Repr

/-- The opcode of a command. -/
def Instr.opcode : Instr → Opcode
  | .buildLookup _ => .buildLookup
  | .freeLookup _ => .freeLookup
  | .init _ => .init
  | .clear _ => .clear
  | .destroy _ => .destroy
  | .submit _ _ _ => .submit
  | .sample _ _ => .sample
  | .setPitch _ _ => .setPitch
  | .getPitch _ => .getPitch
  | .getPosition _ => .getPosition
  | .getAlive _ => .getAlive
  | .getSafe _ => .getSafe
  | .getResolution _ => .getResolution
  | .readTable _ _ => .readTable
  | .readReg _ _ => .readReg

end Sys2Proof
end

