-- ==== Sys2Proof/Machine/Dispatch.lean ====
section
/-! DEFINITION. One arm per command (30_encoding R74). -/

namespace Sys2Proof.Machine

def exec (i : Instr) (s : State) : Host.Outcome State Fault Refusal :=
  match i with
  | .buildLookup id => Sys2Proof.Machine.execBuildLookup id s
  | .freeLookup t => Sys2Proof.Machine.execFreeLookup t s
  | .init id => Sys2Proof.Machine.execInit id s
  | .clear d => Sys2Proof.Machine.execClear d s
  | .destroy d => Sys2Proof.Machine.execDestroy d s
  | .submit d count rate => Sys2Proof.Machine.execSubmit d count rate s
  | .sample s0 s1 => Sys2Proof.Machine.execSample s0 s1 s
  | .setPitch d pitch => Sys2Proof.Machine.execSetPitch d pitch s
  | .getPitch d => Sys2Proof.Machine.execGetPitch d s
  | .getPosition d => Sys2Proof.Machine.execGetPosition d s
  | .getAlive d => Sys2Proof.Machine.execGetAlive d s
  | .getSafe d => Sys2Proof.Machine.execGetSafe d s
  | .getResolution d => Sys2Proof.Machine.execGetResolution d s
  | .readTable t index => Sys2Proof.Machine.execReadTable t index s
  | .readReg d reg => Sys2Proof.Machine.execReadReg d reg s

end Sys2Proof.Machine
end

