-- ==== Sys2Proof/WellFormed.lean ====
section
/-! DEFINITION. The checks that do not depend on the state: the legal values of the parameters (00_scope R6), and which
command words are commands at all, read off opcode_table.json (match and mask), independently of the decoder.
A term of `Instr` needs no check: each operand has the width of its field. -/

namespace Sys2Proof

/-- The legal values of the parameters (the column "legal values" of R6). `defs` may be any partial map. -/
def Config.legal (cfg : Config) : Bool :=
  decide (2 ≤ cfg.wmax) && decide (cfg.wmax ≤ 24)
    && decide (1 ≤ cfg.ntab) && decide (cfg.ntab ≤ 255)
    && decide (1 ≤ cfg.ndec) && decide (cfg.ndec ≤ 255)
    && decide (cfg.confirm ≤ 2 ^ 32 - 2)
    && decide (cfg.timeout ≤ 2 ^ 32 - 2)
    && decide (cfg.zeroShift ≤ 15)
    && decide (cfg.signalShift ≤ 15)
    && decide (cfg.gateFloor ≤ 32767)
    && decide (cfg.gateNum ≤ 255)
    && decide (cfg.gateShift ≤ 15)
    && decide (cfg.guard ≤ 2 ^ 32 - 1)
    && decide (1 ≤ cfg.bndDen)
    && decide (2 * cfg.bndNum < cfg.bndDen)

/-- One row of opcode_table.json: a word is the row's command iff its masked bits equal `pattern`. -/
structure OpcodeRow where
  mnemonic : String
  pattern : CommandWord
  mask : CommandWord
  deriving DecidableEq, Repr

/-- opcode_table.json, row by row. -/
def opcodeTable : List OpcodeRow :=
  [ { mnemonic := "BUILD_LOOKUP", pattern := 0x0100000000000000, mask := 0xFFFFFFFFFFFFFF00 },
    { mnemonic := "FREE_LOOKUP", pattern := 0x0200000000000000, mask := 0xFF00FFFFFFFFFFFF },
    { mnemonic := "INIT", pattern := 0x0300000000000000, mask := 0xFFFFFFFFFFFFFF00 },
    { mnemonic := "CLEAR", pattern := 0x0400000000000000, mask := 0xFF00FFFFFFFFFFFF },
    { mnemonic := "DESTROY", pattern := 0x0500000000000000, mask := 0xFF00FFFFFFFFFFFF },
    { mnemonic := "SUBMIT", pattern := 0x0600000000000000, mask := 0xFF00000000000000 },
    { mnemonic := "SAMPLE", pattern := 0x0700000000000000, mask := 0xFFFFFFFF00000000 },
    { mnemonic := "SET_PITCH", pattern := 0x0800000000000000, mask := 0xFF00FFFF00000000 },
    { mnemonic := "GET_PITCH", pattern := 0x0900000000000000, mask := 0xFF00FFFFFFFFFFFF },
    { mnemonic := "GET_POSITION", pattern := 0x0A00000000000000, mask := 0xFF00FFFFFFFFFFFF },
    { mnemonic := "GET_ALIVE", pattern := 0x0B00000000000000, mask := 0xFF00FFFFFFFFFFFF },
    { mnemonic := "GET_SAFE", pattern := 0x0C00000000000000, mask := 0xFF00FFFFFFFFFFFF },
    { mnemonic := "GET_RESOLUTION", pattern := 0x0D00000000000000, mask := 0xFF00FFFFFFFFFFFF },
    { mnemonic := "READ_TABLE", pattern := 0x0E00000000000000, mask := 0xFF00FFFFFF000000 },
    { mnemonic := "READ_REG", pattern := 0x0F00000000000000, mask := 0xFF00FFFFFFFFFF00 } ]

/-- The word is of this row. -/
def OpcodeRow.admits (r : OpcodeRow) (w : CommandWord) : Bool :=
  w &&& r.mask == r.pattern

/-- The word is a command: its opcode is in the map and its reserved bits are zero (R75, R76). -/
def CommandWord.wellFormed (w : CommandWord) : Bool :=
  opcodeTable.any (fun r => r.admits w)

end Sys2Proof
end

