-- ==== Sys2Proof/Decode.lean ====
section
/-! DEFINITION. Decoding a 64-bit command word (30_encoding R70 to R76), total and reading no state, and the encoder of
the same formats. -/

namespace Sys2Proof

/-- Why a word is no command (R75, R76); the block answers both with E_ILLEGAL. -/
inductive DecodeError
  /-- the opcode is 0x00 or 0x10 to 0xFF -/
  | illegalOpcode (opc : BitVec 8)
  /-- the opcode is legal and a reserved bit of its format is 1 -/
  | reservedBits (opc : BitVec 8)
  deriving DecidableEq, Repr

/-- `OPC = w[63:56]` (R70). -/
def opcField (w : CommandWord) : BitVec 8 := w.extractLsb' 56 8
/-- `H = w[55:48]` (R70). -/
def handleField (w : CommandWord) : Handle := w.extractLsb' 48 8
/-- `DEF = REG = w[7:0]` (R71). -/
def lowByteField (w : CommandWord) : BitVec 8 := w.extractLsb' 0 8
/-- `COUNT = w[47:24]` (R71). -/
def countField (w : CommandWord) : Field24 := w.extractLsb' 24 24
/-- `RATE = INDEX = w[23:0]` (R71). -/
def low24Field (w : CommandWord) : Field24 := w.extractLsb' 0 24
/-- `S0 = w[31:16]` (R71). -/
def s0Field (w : CommandWord) : SampleBits := w.extractLsb' 16 16
/-- `S1 = w[15:0]` (R71). -/
def s1Field (w : CommandWord) : SampleBits := w.extractLsb' 0 16
/-- `PITCH = w[31:0]` (R71). -/
def pitchField (w : CommandWord) : Word := w.extractLsb' 0 32

/-- The opcode map (R74). -/
def opcodeOf (opc : BitVec 8) : Option Opcode :=
  match opc.toNat with
  | 0x01 => some .buildLookup
  | 0x02 => some .freeLookup
  | 0x03 => some .init
  | 0x04 => some .clear
  | 0x05 => some .destroy
  | 0x06 => some .submit
  | 0x07 => some .sample
  | 0x08 => some .setPitch
  | 0x09 => some .getPitch
  | 0x0A => some .getPosition
  | 0x0B => some .getAlive
  | 0x0C => some .getSafe
  | 0x0D => some .getResolution
  | 0x0E => some .readTable
  | 0x0F => some .readReg
  | _ => none

/-- The number of an opcode (R74). -/
def opcodeNumber : Opcode → BitVec 8
  | .buildLookup => 0x01
  | .freeLookup => 0x02
  | .init => 0x03
  | .clear => 0x04
  | .destroy => 0x05
  | .submit => 0x06
  | .sample => 0x07
  | .setPitch => 0x08
  | .getPitch => 0x09
  | .getPosition => 0x0A
  | .getAlive => 0x0B
  | .getSafe => 0x0C
  | .getResolution => 0x0D
  | .readTable => 0x0E
  | .readReg => 0x0F

/-- The format of an opcode (R74). -/
def formatOf : Opcode → Format
  | .buildLookup => .D
  | .freeLookup => .N
  | .init => .D
  | .clear => .N
  | .destroy => .N
  | .submit => .S
  | .sample => .X
  | .setPitch => .P
  | .getPitch => .N
  | .getPosition => .N
  | .getAlive => .N
  | .getSafe => .N
  | .getResolution => .N
  | .readTable => .I
  | .readReg => .G

/-- The reserved bits of a format: the `0` cells of R71, `H` included in formats D and X. -/
def reservedBits : Format → CommandWord
  | .N => 0x0000FFFFFFFFFFFF
  | .D => 0x00FFFFFFFFFFFF00
  | .S => 0x0000000000000000
  | .X => 0x00FFFFFF00000000
  | .P => 0x0000FFFF00000000
  | .I => 0x0000FFFFFF000000
  | .G => 0x0000FFFFFFFFFF00

/-- The operands of an opcode, taken from the word unscaled (R71, R72). -/
def assemble (op : Opcode) (w : CommandWord) : Instr :=
  match op with
  | .buildLookup => .buildLookup (lowByteField w)
  | .freeLookup => .freeLookup (handleField w)
  | .init => .init (lowByteField w)
  | .clear => .clear (handleField w)
  | .destroy => .destroy (handleField w)
  | .submit => .submit (handleField w) (countField w) (low24Field w)
  | .sample => .sample (s0Field w) (s1Field w)
  | .setPitch => .setPitch (handleField w) (pitchField w)
  | .getPitch => .getPitch (handleField w)
  | .getPosition => .getPosition (handleField w)
  | .getAlive => .getAlive (handleField w)
  | .getSafe => .getSafe (handleField w)
  | .getResolution => .getResolution (handleField w)
  | .readTable => .readTable (handleField w) (low24Field w)
  | .readReg => .readReg (handleField w) (lowByteField w)

/-- The decoding procedure of R75. -/
def decode (w : CommandWord) : Except DecodeError Instr :=
  match opcodeOf (opcField w) with
  | none => .error (.illegalOpcode (opcField w))
  | some op =>
    if w &&& reservedBits (formatOf op) = 0 then .ok (assemble op w)
    else .error (.reservedBits (opcField w))

/-- A word with the field `v` at bit `lo` and every other bit 0. -/
def place {n : Nat} (lo : Nat) (v : BitVec n) : CommandWord := v.setWidth 64 <<< lo

/-- The operand area and handle of a command, each field at its place; the reserved bits are 0 (R70, R71). -/
def operandBits : Instr → CommandWord
  | .buildLookup id => place 0 id
  | .freeLookup t => place 48 t
  | .init id => place 0 id
  | .clear d => place 48 d
  | .destroy d => place 48 d
  | .submit d count rate => place 48 d ||| place 24 count ||| place 0 rate
  | .sample s0 s1 => place 16 s0 ||| place 0 s1
  | .setPitch d pitch => place 48 d ||| place 0 pitch
  | .getPitch d => place 48 d
  | .getPosition d => place 48 d
  | .getAlive d => place 48 d
  | .getSafe d => place 48 d
  | .getResolution d => place 48 d
  | .readTable t index => place 48 t ||| place 0 index
  | .readReg d reg => place 48 d ||| place 0 reg

/-- The word of a command (R70, R71). -/
def encode (i : Instr) : CommandWord := place 56 (opcodeNumber i.opcode) ||| operandBits i

/-- The command word of `nbits` bits whose bits are `w`; the bits above `nbits` are 0. -/
def tableWord (nbits w : Nat) : CommandWord :=
  BitVec.ofNat 64 (w % 2 ^ nbits)

/-- The command the decoder reads from a row of opcode_table.json: the block has one command length, 64 bits (R70), and
moves whole words (R54), so the table's number is the word. -/
def decodeTableWord (nbits w : Nat) : Option Instr :=
  match decode (tableWord nbits w) with
  | .ok i => some i
  | .error _ => none

end Sys2Proof
end

