-- ==== Sys2Proof/Machine/Fetch.lean ====
section
/-! DEFINITION. Taking the next command word from the command port (30_encoding R70, 45_session_submit R200). -/

namespace Sys2Proof.Machine

/-- The next word on the port and the state with that word taken; `none` where no word waits. -/
def fetch (s : State) : Option (CommandWord × State) :=
  match s.port with
  | [] => none
  | w :: rest => some (w, { s with port := rest })

/-- The word put on the port in front of those waiting. -/
def offer (s : State) (w : CommandWord) : State := { s with port := w :: s.port }

end Sys2Proof.Machine
end

