-- ==== Sys2Proof/Machine/Step.lean ====
section
/-! DEFINITION. One step of the block (45_session_submit R200): take a word, decode it, run its rule. -/

namespace Sys2Proof.Machine

/-- `Step(w)` for the next word `w` of the port (R200). A word that is no command raises E_ILLEGAL (R76); with no word on
the port there is no step (log entry 4). -/
def step (s : State) : Host.Outcome State Fault Refusal :=
  match fetch s with
  | none => .refused .noCommand
  | some (w, s') =>
    match decode w with
    | .error _ => raise s' .illegal
    | .ok i => exec i s'

/-- `s` with the command of `nbits` bits whose bits are `w` as the next word on the command port: the load of a program
from outside (log entry 3). -/
def State.withFetchWord (s : State) (nbits w : Nat) : State :=
  offer s (tableWord nbits w)

end Sys2Proof.Machine
end

