-- ==== Sys2Proof/Safety.lean ====
section
/-! DEFINITION. The terms the claims use: the state invariant of the block (10_state R21, R22, R33, R34, R39; 20_memory R50), what a
command's hypotheses say of a state, the medium a definition describes (43_resolver R167), and runs of frames. -/

namespace Sys2Proof.Machine

/-! ### The invariant -/

/-- The channel's estimates are in the ranges of R33. -/
def channelWf (ch : Channel) : Bool :=
  decide (-32768 * 2 ^ 16 ≤ ch.zero.toInt) && decide (ch.zero.toInt ≤ 32767 * 2 ^ 16)
    && decide (ch.peak.toNat ≤ 2 ^ 32 - 2 ^ 16)

/-- Slot `t` holds the table of `D`: every entry `0 .. 2^W-1` is `Build(D)`'s (R103). -/
def State.holdsTable (s : State) (t : Nat) (D : Definition) : Bool :=
  match build D with
  | none => false
  | some T => (List.range (2 ^ D.W)).all fun i => s.entry t i == tc32 (T.getD i (-1))

/-- How many contexts in use are bound to slot `t`. -/
def State.boundCount (s : State) (t : Nat) : Nat :=
  s.ctxs.countP fun d => d.inUse && d.slot.toNat == t

/-- R21: `dec_refs` counts the contexts bound, and `valid = 1` iff `ext_refs + dec_refs ≥ 1`; a valid slot holds the table
of a legal definition (R56, R103, R106). -/
def State.slotWf (s : State) (t : Nat) : Bool :=
  let sl := s.slotAt t
  sl.decRefs.toNat == s.boundCount t
    && sl.valid == (sl.extRefs != 0 || sl.decRefs != 0)
    && (!sl.valid ||
        match s.cfg.definition? sl.defId with
        | none => false
        | some D => fieldsLegal s.cfg D && s.holdsTable t D)

/-- A context in use is bound to the valid slot of its definition, its window is inside the table (R28, R161), its
timecode is a position or, before any hit, -1 (R29, R39), its estimates are in range (R26, R27, R33), and
`valid_counter > 0` implies `timecode_ticker ≤ TIMEOUT` (R39). -/
def State.contextWf (s : State) (d : Context) : Bool :=
  !d.inUse ||
    (decide (d.slot.toNat < s.cfg.ntab) && (s.slotAt d.slot.toNat).valid
      && (s.slotAt d.slot.toNat).defId == d.defId
      && (match s.cfg.definition? d.defId with
          | none => false
          | some D =>
            decide (d.bitstream.toNat < 2 ^ D.W)
              && ((d.timecode == sentinel && d.validCounter == 0) || decide (d.timecode.toNat < D.length)))
      && decide (d.signalLevel.toNat ≤ 2 ^ 32 - 2 ^ 16)
      && !d.pitch.getLsbD 31
      && channelWf d.primary && channelWf d.secondary
      && (d.validCounter == 0 || decide (d.timecodeTicker.toNat ≤ s.cfg.timeout)))

/-- While the window is open, frames remain and its context is in use with a rate (R25, R34). -/
def State.windowWf (s : State) : Bool :=
  !s.sub.active ||
    (decide (1 ≤ s.sub.remaining.toNat) && decide (s.sub.remaining.toNat ≤ s.sub.count.toNat)
      && match s.context? s.sub.handle with
         | none => false
         | some d => d.inUse && d.rate != 0)

/-- The table memory is in canonical form and lists only entries that exist (R50). -/
def State.memoryWf (s : State) : Bool :=
  Memory.wf s.mem && s.mem.all fun p => decide (p.1 < s.cfg.ntab * 2 ^ s.cfg.wmax)

/-- At most one valid slot holds a given definition (R22). -/
def State.slotsDistinct (s : State) : Bool :=
  decide ((s.slots.filter (·.valid)).map (·.defId)).Nodup

/-- The invariant of the block. -/
def State.wellFormed (s : State) : Bool :=
  s.cfg.legal
    && s.slots.length == s.cfg.ntab && s.ctxs.length == s.cfg.ndec
    && s.memoryWf && s.slotsDistinct
    && (List.range s.cfg.ntab).all s.slotWf
    && s.ctxs.all s.contextWf
    && s.windowWf

/-! ### What a command's hypotheses say -/

/-- Context `d` exists, is in use and is `c` (the check of R183 passes). -/
def State.uses (s : State) (d : Handle) (c : Context) : Prop :=
  d.toNat < s.cfg.ndec ∧ s.ctxs[d.toNat]? = some c ∧ c.inUse = true

/-- Context `d` does not exist or is not in use (the check of R183 fails). -/
def State.unused (s : State) (d : Handle) : Prop :=
  s.cfg.ndec ≤ d.toNat ∨ ∃ c, s.ctxs[d.toNat]? = some c ∧ c.inUse = false

/-- Slot `t` exists, is valid and is `sl`. -/
def State.built (s : State) (t : Nat) (sl : Slot) : Prop :=
  t < s.cfg.ntab ∧ s.slots[t]? = some sl ∧ sl.valid = true

/-- Slot `t` is the least valid slot that holds `id`, and is `sl`; under R22 it is the only one. -/
def State.holds (s : State) (id : DefId) (t : Nat) (sl : Slot) : Prop :=
  s.slots[t]? = some sl ∧ sl.valid = true ∧ sl.defId = id ∧
    ∀ t' sl', t' < t → s.slots[t']? = some sl' → ¬ (sl'.valid = true ∧ sl'.defId = id)

/-- No valid slot holds `id`. -/
def State.lacks (s : State) (id : DefId) : Prop :=
  ∀ sl ∈ s.slots, sl.valid = true → sl.defId ≠ id

/-- `t` is the least slot with `valid = 0` (R106). -/
def State.leastFreeSlot (s : State) (t : Nat) : Prop :=
  (∃ sl, s.slots[t]? = some sl ∧ sl.valid = false) ∧
    ∀ t' sl', t' < t → s.slots[t']? = some sl' → sl'.valid = true

/-- `d` is the least context with `in_use = 0` (R201). -/
def State.leastFreeContext (s : State) (d : Nat) : Prop :=
  (∃ c, s.ctxs[d]? = some c ∧ c.inUse = false) ∧
    ∀ d' c', d' < d → s.ctxs[d']? = some c' → c'.inUse = true

/-- The state with the error response `(E_X, 0, 0)` and no other change (R221). -/
def State.refusing (s : State) (e : Status) : State :=
  { s with responses := s.responses ++ [{ status := e, data0 := 0, data1 := 0 }] }

/-- The state with the response `(OK, data0, data1)` and no other change. -/
def State.answering (s : State) (data0 data1 : Word) : State :=
  { s with responses := s.responses ++ [{ status := .ok, data0 := data0, data1 := data1 }] }

/-- Run the given commands one after the other, stopping at a fault or a refusal. -/
def execAll : List Instr → State → Result
  | [], s => .next s
  | i :: is, s =>
    match exec i s with
    | .next s' => execAll is s'
    | .fault f => .fault f
    | .refused r => .refused r

/-! ### The medium -/

/-- `b_n`, the bit cycle `n` of the medium carries: bit `W-1` of the LFSR state after `n` steps (R148, R167). -/
def mediumBit (D : Definition) (n : Nat) : Bool := (lfsrState D n).testBit (D.W - 1)

/-- The window after the bits of the given cycles are read in that order (R160). -/
def readCycles (D : Definition) (forwards : Bool) (cycles : List Nat) (window : Nat) : Nat :=
  cycles.foldl (fun w n => shiftIn D forwards (mediumBit D n) w) window

/-! ### Runs of frames through the zero-crossing stage -/

/-- One frame's stage 1: primary, then secondary (R207). -/
def crossFrame (cfg : Config) (v : Int × Int) (d : Context) : Context :=
  (zeroCross cfg 0 .secondary v.2 (zeroCross cfg 0 .primary v.1 d).1).1

/-- The context after stage 1 of the given frames. -/
def afterFrames (cfg : Config) (vs : List (Int × Int)) (d : Context) : Context :=
  vs.foldl (fun d v => crossFrame cfg v d) d

/-- The signal level a channel's gate sees: the secondary's is taken after the primary's update (R125). -/
def seenLevel (cfg : Config) (c : ChannelId) (v : Int × Int) (d : Context) : Word :=
  match c with
  | .primary => d.signalLevel
  | .secondary => (zeroCross cfg 0 .primary v.1 d).1.signalLevel

/-- The sample of a frame that a channel is given. -/
def sampleOf (c : ChannelId) (v : Int × Int) : Int :=
  match c with
  | .primary => v.1
  | .secondary => v.2

/-- Channel `c` confirms a crossing on the frame `v` that follows the frames `vs`. -/
def crossesAfter (cfg : Config) (c : ChannelId) (vs : List (Int × Int)) (v : Int × Int) (d : Context) : Bool :=
  let d' := afterFrames cfg vs d
  confirms cfg (seenLevel cfg c v d') (d'.channel c) (sampleOf c v)

/-- Both samples of a frame are 16-bit signed values (R72). -/
def frameInRange (v : Int × Int) : Prop :=
  -32768 ≤ v.1 ∧ v.1 ≤ 32767 ∧ -32768 ≤ v.2 ∧ v.2 ≤ 32767

end Sys2Proof.Machine
end

