-- ==== Sys2Proof/Certificates/Slice0/Obligations.lean ====
section
/-! DEFINITION. The statements for the provers. Each docstring names the rules it rests on. -/

open Sys2Proof Sys2Proof.Machine

/-! ### Decoding -/

/-- R70 to R74: the decoder reads from a command's word the command itself, every operand at every value. -/
def Obligations.DecodeOfEncodeIsTheInstruction : Prop :=
  ∀ i : Instr, decode (encode i) = .ok i

/-- R75, R77: a word decodes to at most the command whose word it is; no bit of a word is ignored. -/
def Obligations.EncodeOfDecodeIsTheWord : Prop :=
  ∀ (w : CommandWord) (i : Instr), decode w = .ok i → encode i = w

/-- R71, R75, R76: the decoder accepts exactly the words that a row of opcode_table.json admits (match and mask). -/
def Obligations.DecoderAcceptsExactlyTheOpcodeTable : Prop :=
  ∀ w : CommandWord, (∃ i, decode w = .ok i) ↔ CommandWord.wellFormed w = true

/-- R74: no word is admitted by two rows of opcode_table.json. -/
def Obligations.OpcodeTableIsUnambiguous : Prop :=
  ∀ w : CommandWord, (opcodeTable.filter fun r => r.admits w).length ≤ 1

/-- R80: the example words decode to the commands beside them; the two illegal ones raise `E_ILLEGAL`. -/
def Obligations.ExampleWordsDecode : Prop :=
  decode 0x0100000000000000 = .ok (.buildLookup 0)
  ∧ decode 0x0201000000000000 = .ok (.freeLookup 1)
  ∧ decode 0x0300000000000000 = .ok (.init 0)
  ∧ decode 0x0401000000000000 = .ok (.clear 1)
  ∧ decode 0x06000000E0000010 = .ok (.submit 0 224 16)
  ∧ decode 0x070000002710D8F0 = .ok (.sample (BitVec.ofInt 16 10000) (BitVec.ofInt 16 (-10000)))
  ∧ decode 0x0700000080007FFF = .ok (.sample (BitVec.ofInt 16 (-32768)) (BitVec.ofInt 16 32767))
  ∧ decode 0x0800000000018000 = .ok (.setPitch 0 0x00018000)
  ∧ decode 0x0A00000000000000 = .ok (.getPosition 0)
  ∧ decode 0x0E0000000000000D = .ok (.readTable 0 13)
  ∧ decode 0x0F00000000000009 = .ok (.readReg 0 0x09)
  ∧ (∀ s rest, s.port = 0x0100000000000100 :: rest →
      step s = .next (({ s with port := rest } : State).refusing .illegal))
  ∧ (∀ s rest, s.port = 0x1000000000000000 :: rest →
      step s = .next (({ s with port := rest } : State).refusing .illegal))

/-! ### The step -/

/-- R200: the step takes the next word off the port (the port is the model's, log entry 3) and runs the command it decodes
to. -/
def Obligations.StepRunsTheDecodedCommand : Prop :=
  ∀ (s : State) (w : CommandWord) (rest : List CommandWord) (i : Instr),
    s.port = w :: rest → decode w = .ok i → step s = exec i { s with port := rest }

/-- R76: a word whose opcode is 0x00 or 0x10 to 0xFF, or that has a reserved bit set (no row of the table admits it),
responds `(E_ILLEGAL, 0, 0)` and changes no state, inside an open window too. The word is taken off the port. -/
def Obligations.IllegalWordRespondsIllegal : Prop :=
  ∀ (s : State) (w : CommandWord) (rest : List CommandWord),
    s.port = w :: rest →
    (w.extractLsb' 56 8 = 0 ∨ 0x10 ≤ (w.extractLsb' 56 8).toNat ∨ CommandWord.wellFormed w = false) →
    step s = .next (({ s with port := rest } : State).refusing .illegal)

/-- R200, R206: inside an open window every command but SAMPLE responds `(E_BUSY, 0, 0)` and is not executed; R200: outside
a window SAMPLE responds `(E_SEQUENCE, 0, 0)`. -/
def Obligations.WindowCheckComesFirst : Prop :=
  ∀ (s : State) (i : Instr),
    (s.sub.active = true → i.opcode ≠ .sample → exec i s = .next (s.refusing .busy))
    ∧ (s.sub.active = false → i.opcode = .sample → exec i s = .next (s.refusing .sequence))

/-- R183: every decoder-handle command that names a context that does not exist or is not in use responds
`(E_BAD_HANDLE, 0, 0)`, before its own checks and after the window check. -/
def Obligations.UnusedDecoderRaisesBadHandle : Prop :=
  ∀ (s : State) (d : Handle) (i : Instr),
    s.unused d →
    (i = .clear d ∨ i = .destroy d ∨ (∃ n r, i = .submit d n r) ∨ (∃ p, i = .setPitch d p)
      ∨ i = .getPitch d ∨ i = .getPosition d ∨ i = .getAlive d ∨ i = .getSafe d
      ∨ i = .getResolution d ∨ ∃ r, i = .readReg d r) →
    exec i s = .next (s.refusing (if s.sub.active then .busy else .badHandle))

/-- R221, R226: whatever a command does, it either appends one error response and changes nothing else, or appends one OK
response, or (a SUBMIT that opens a window, a SAMPLE that is not the last) appends no response. -/
def Obligations.ErrorsChangeNothingElse : Prop :=
  ∀ (i : Instr) (s t : State), exec i s = .next t →
    (∃ e, e ≠ Status.ok ∧ t = s.refusing e)
    ∨ (∃ d0 d1, t.responses = s.responses ++ [{ status := .ok, data0 := d0, data1 := d1 }])
    ∨ (t.responses = s.responses ∧ t.sub.active = true ∧ (i.opcode = .submit ∨ i.opcode = .sample))

/-- R20, R35, R58: a step takes one word off the port, changes no parameter and no definition, and only appends to the two
output traces. -/
def Obligations.StepKeepsParametersAndAppendsToTraces : Prop :=
  ∀ s t : State, step s = .next t →
    t.cfg = s.cfg ∧ s.port = (s.port.take 1) ++ t.port ∧ s.port ≠ []
    ∧ s.responses <+: t.responses ∧ t.responses.length ≤ s.responses.length + 1
    ∧ s.events <+: t.events ∧ t.events.length ≤ s.events.length + 2

/-! ### The queries -/

/-- R186: GET_POSITION answers the timecode and its age while the context is alive, else `(0xFFFFFFFF, 0)`; nothing else
changes. -/
def Obligations.GetPositionAnswers : Prop :=
  ∀ (s : State) (d : Handle) (c : Context), s.sub.active = false → s.uses d c →
    (s.cfg.confirm < c.validCounter.toNat ∧ c.timecodeTicker.toNat ≤ s.cfg.timeout →
      exec (.getPosition d) s = .next (s.answering c.timecode c.timecodeTicker))
    ∧ (¬ (s.cfg.confirm < c.validCounter.toNat ∧ c.timecodeTicker.toNat ≤ s.cfg.timeout) →
      exec (.getPosition d) s = .next (s.answering 0xFFFFFFFF 0))

/-- R180, R181: GET_ALIVE answers 1 iff `valid_counter > CONFIRM` and `timecode_ticker ≤ TIMEOUT`; nothing else changes. -/
def Obligations.GetAliveAnswers : Prop :=
  ∀ (s : State) (d : Handle) (c : Context), s.sub.active = false → s.uses d c →
    (s.cfg.confirm < c.validCounter.toNat ∧ c.timecodeTicker.toNat ≤ s.cfg.timeout →
      exec (.getAlive d) s = .next (s.answering 1 0))
    ∧ (¬ (s.cfg.confirm < c.validCounter.toNat ∧ c.timecodeTicker.toNat ≤ s.cfg.timeout) →
      exec (.getAlive d) s = .next (s.answering 0 0))

/-- R185: GET_PITCH answers 0 before the first crossing, else the pitch signed by the direction; nothing else changes. -/
def Obligations.GetPitchAnswersSignedPitch : Prop :=
  ∀ (s : State) (d : Handle) (c : Context), s.sub.active = false → s.uses d c →
    c.pitch.toNat < 2 ^ 31 →
    ∃ v : Word, exec (.getPitch d) s = .next (s.answering v 0)
      ∧ v.toInt = if c.seenCrossing = false then 0
          else if c.forwards = true then (c.pitch.toNat : Int) else -(c.pitch.toNat : Int)

/-- R187, R188: GET_SAFE and GET_RESOLUTION answer the bound definition's `safe` and `R`; nothing else changes. -/
def Obligations.GetSafeAndResolutionAnswer : Prop :=
  ∀ (s : State) (d : Handle) (c : Context) (D : Definition), s.sub.active = false → s.uses d c →
    s.cfg.definition? c.defId = some D → fieldsLegal s.cfg D = true → s.cfg.legal = true →
    ∃ v r : Word, exec (.getSafe d) s = .next (s.answering v 0) ∧ v.toNat = D.safe
      ∧ exec (.getResolution d) s = .next (s.answering r 0) ∧ r.toNat = D.R

/-- R38, R189: READ_REG answers the field its register number names, as R38 encodes it; nothing else changes. -/
def Obligations.ReadRegAnswersTheNamedField : Prop :=
  ∀ (s : State) (d : Handle) (c : Context), s.sub.active = false → s.uses d c →
    ∀ p ∈ ([(0x00, c.defId.setWidth 32), (0x01, c.slot.setWidth 32),
        (0x02, if c.forwards then 1 else 0), (0x03, c.rate.setWidth 32),
        (0x04, c.signalLevel), (0x05, c.pitch), (0x06, if c.seenCrossing then 1 else 0),
        (0x07, c.bitstream.setWidth 32), (0x08, c.timecode), (0x09, c.validCounter),
        (0x0A, c.timecodeTicker),
        (0x0B, if s.cfg.timeout < c.timecodeTicker.toNat then 2
               else if s.cfg.confirm < c.validCounter.toNat then 1 else 0),
        (0x10, if c.primary.positive then 1 else 0), (0x11, if c.primary.swapped then 1 else 0),
        (0x12, c.primary.zero), (0x13, c.primary.crossingTicker), (0x14, c.primary.peak),
        (0x15, if c.primary.swapped then 0 else if c.primary.positive then 1 else 2),
        (0x18, if c.secondary.positive then 1 else 0), (0x19, if c.secondary.swapped then 1 else 0),
        (0x1A, c.secondary.zero), (0x1B, c.secondary.crossingTicker), (0x1C, c.secondary.peak),
        (0x1D, if c.secondary.swapped then 0 else if c.secondary.positive then 1 else 2)]
        : List (RegNumber × Word)),
      exec (.readReg d p.1) s = .next (s.answering p.2 0)

/-- R38, R189: READ_REG of a reserved number (0x0C to 0x0F, 0x16 to 0x17, 0x1E to 0xFF) responds
`(E_INVALID_PARAM, 0, 0)`. -/
def Obligations.ReadRegOfReservedNumberIsInvalid : Prop :=
  ∀ (s : State) (d : Handle) (c : Context) (reg : RegNumber), s.sub.active = false → s.uses d c →
    (0x0C ≤ reg.toNat ∧ reg.toNat ≤ 0x0F ∨ 0x16 ≤ reg.toNat ∧ reg.toNat ≤ 0x17 ∨ 0x1E ≤ reg.toNat) →
    exec (.readReg d reg) s = .next (s.refusing .invalidParam)

/-- R108: READ_TABLE answers the entry, or `E_INVALID_PARAM` at and above `2^W`, or `E_BAD_HANDLE` for a slot that does not
exist or is not valid; nothing else changes. -/
def Obligations.ReadTableAnswersTheEntry : Prop :=
  ∀ (s : State) (t : Handle) (index : Field24), s.sub.active = false →
    (∀ (sl : Slot) (D : Definition), s.built t.toNat sl → s.cfg.definition? sl.defId = some D →
      D.W ≤ s.cfg.wmax →
      (index.toNat < 2 ^ D.W →
        exec (.readTable t index) s = .next (s.answering (s.entry t.toNat index.toNat) 0))
      ∧ (2 ^ D.W ≤ index.toNat →
        exec (.readTable t index) s = .next (s.refusing .invalidParam)))
    ∧ (s.cfg.ntab ≤ t.toNat ∨ (∃ sl, s.slots[t.toNat]? = some sl ∧ sl.valid = false) →
        exec (.readTable t index) s = .next (s.refusing .badHandle))

/-- R181, R185 to R189, R108: a GET or READ command that completes changes nothing but the response trace. -/
def Obligations.QueriesChangeOnlyTheResponseTrace : Prop :=
  ∀ (i : Instr) (s t : State),
    i.opcode ∈ [.getPitch, .getPosition, .getAlive, .getSafe, .getResolution, .readTable, .readReg] →
    exec i s = .next t → ∃ r : Response, t = { s with responses := s.responses ++ [r] }

/-! ### The pitch register, sessions, submission -/

/-- R184: SET_PITCH writes the pitch of its context and answers `(OK, 0, 0)`, or responds `(E_INVALID_PARAM, 0, 0)` where
bit 31 is set; nothing else changes. -/
def Obligations.SetPitchWritesThePitch : Prop :=
  ∀ (s : State) (d : Handle) (c : Context) (pitch : Word), s.sub.active = false → s.uses d c →
    (pitch.toNat < 2 ^ 31 →
      exec (.setPitch d pitch) s =
        .next (({ s with ctxs := s.ctxs.set d.toNat { c with pitch := pitch } } : State).answering 0 0))
    ∧ (2 ^ 31 ≤ pitch.toNat →
      exec (.setPitch d pitch) s = .next (s.refusing .invalidParam))

/-- R202, R208, R242: CLEAR sets the adaptive state to its initial values, keeps the binding, `in_use` and `rate`, touches no
other context, slot or entry, and answers `(OK, 0, 0)`. -/
def Obligations.ClearResetsTheAdaptiveState : Prop :=
  ∀ (s : State) (d : Handle) (c : Context), s.sub.active = false → s.uses d c →
    exec (.clear d) s = .next (({ s with
      ctxs := s.ctxs.set d.toNat
        { inUse := true, defId := c.defId, slot := c.slot, rate := c.rate,
          forwards := true, signalLevel := 0, pitch := 0, seenCrossing := false, bitstream := 0,
          timecode := 0xFFFFFFFF, validCounter := 0, timecodeTicker := 0,
          primary := { positive := false, swapped := false, zero := 0, crossingTicker := 0, peak := 0 },
          secondary := { positive := false, swapped := false, zero := 0, crossingTicker := 0, peak := 0 } } }
      : State).answering 0 0)

/-- R203, R109: DESTROY drops the context's reference and frees the context; the slot is released iff no reference is left,
and DATA0 says whether it is still held. Nothing else changes: that the context's other fields and the entries of a
released slot stay as they were is the model's choice (log entry 8, DESIGN CHOICE). -/
def Obligations.DestroyDropsTheReference : Prop :=
  ∀ (s : State) (d : Handle) (c : Context) (sl : Slot), s.sub.active = false → s.uses d c →
    c.slot.toNat < s.cfg.ntab → s.slots[c.slot.toNat]? = some sl → sl.valid = true →
    (sl.extRefs ≠ 0 ∨ sl.decRefs ≠ 1 →
      exec (.destroy d) s = .next (({ s with
        slots := s.slots.set c.slot.toNat { sl with decRefs := sl.decRefs - 1 }
        ctxs := s.ctxs.set d.toNat { c with inUse := false } } : State).answering 1 0))
    ∧ (sl.extRefs = 0 ∧ sl.decRefs = 1 →
      exec (.destroy d) s = .next (({ s with
        slots := s.slots.set c.slot.toNat { sl with decRefs := 0, valid := false }
        ctxs := s.ctxs.set d.toNat { c with inUse := false } } : State).answering 0 0))

/-- R204: SUBMIT raises `E_INVALID_PARAM` for rate 0; else it sets the rate, and answers `(OK, 0, 0)` at once for no frames or
opens the window with no response. Nothing else changes. -/
def Obligations.SubmitSetsTheRateAndOpensTheWindow : Prop :=
  ∀ (s : State) (d : Handle) (c : Context) (count rate : Field24), s.sub.active = false → s.uses d c →
    (rate = 0 → exec (.submit d count rate) s = .next (s.refusing .invalidParam))
    ∧ (rate ≠ 0 → count = 0 →
      exec (.submit d count rate) s =
        .next (({ s with ctxs := s.ctxs.set d.toNat { c with rate := rate } } : State).answering 0 0))
    ∧ (rate ≠ 0 → count ≠ 0 →
      exec (.submit d count rate) s =
        .next { s with
          ctxs := s.ctxs.set d.toNat { c with rate := rate }
          sub := { active := true, handle := d, count := count, remaining := count } })

/-- R107, R109: FREE_LOOKUP drops one BUILD_LOOKUP reference; the slot is released iff no reference is left, and DATA0 says
whether it is still held. With no such reference, or no such valid slot, it raises `E_BAD_HANDLE`. Nothing else changes:
that the entries of a released slot stay as they were is the model's choice (log entry 8, DESIGN CHOICE). -/
def Obligations.FreeLookupDropsOneReference : Prop :=
  ∀ (s : State) (t : Handle), s.sub.active = false →
    (∀ sl : Slot, s.built t.toNat sl →
      (sl.extRefs = 0 → exec (.freeLookup t) s = .next (s.refusing .badHandle))
      ∧ (sl.extRefs ≠ 0 → ¬ (sl.extRefs = 1 ∧ sl.decRefs = 0) →
        exec (.freeLookup t) s = .next (({ s with
          slots := s.slots.set t.toNat { sl with extRefs := sl.extRefs - 1 } } : State).answering 1 0))
      ∧ (sl.extRefs = 1 → sl.decRefs = 0 →
        exec (.freeLookup t) s = .next (({ s with
          slots := s.slots.set t.toNat { sl with extRefs := 0, valid := false } } : State).answering 0 0)))
    ∧ (s.cfg.ntab ≤ t.toNat ∨ (∃ sl, s.slots[t.toNat]? = some sl ∧ sl.valid = false) →
        exec (.freeLookup t) s = .next (s.refusing .badHandle))

/-! ### Building and sharing a table -/

/-- R105, R106: BUILD_LOOKUP of a definition whose table is built takes one more reference and answers the slot with
`fresh = 0`; at 0xFFFF references it raises `E_RESOURCE`. Nothing is rebuilt and nothing else changes. -/
def Obligations.BuildLookupSharesABuiltTable : Prop :=
  ∀ (s : State) (id : DefId) (D : Definition) (t : Nat) (sl : Slot), s.sub.active = false →
    s.cfg.definition? id = some D → s.holds id t sl →
    (sl.extRefs ≠ 0xFFFF →
      exec (.buildLookup id) s = .next (({ s with
        slots := s.slots.set t { sl with extRefs := sl.extRefs + 1 } } : State).answering (BitVec.ofNat 32 t) 0))
    ∧ (sl.extRefs = 0xFFFF → exec (.buildLookup id) s = .next (s.refusing .resource))

/-- R105, R106, R103: BUILD_LOOKUP of a legal definition that no slot holds builds its table in the least free slot and
answers the slot with `fresh = 1`. The entries `0 .. 2^W-1` of the slot become `Build(D)`'s and no other entry changes. -/
def Obligations.BuildLookupBuildsInTheLeastFreeSlot : Prop :=
  ∀ (s : State) (id : DefId) (D : Definition) (T : List Int) (t : Nat), s.sub.active = false →
    Memory.wf s.mem = true → s.cfg.definition? id = some D → s.lacks id →
    fieldsLegal s.cfg D = true → build D = some T → s.leastFreeSlot t →
    ∃ m : Memory,
      exec (.buildLookup id) s = .next (({ s with
        mem := m
        slots := s.slots.set t { valid := true, defId := id, extRefs := 1, decRefs := 0 } } : State).answering
          (BitVec.ofNat 32 t) 1)
      ∧ (∀ i < 2 ^ D.W, Memory.read m (entryKey s.cfg t i) = tc32 (T.getD i (-1)))
      ∧ ∀ k, (∀ i < 2 ^ D.W, k ≠ entryKey s.cfg t i) → Memory.read m k = Memory.read s.mem k

/-- R201, R106: INIT of a definition whose table is built creates the least free context, bound to that table, with the
adaptive state of R208 and rate 0; the slot gains one decoder reference. Nothing is built and nothing else changes. -/
def Obligations.InitSharesABuiltTable : Prop :=
  ∀ (s : State) (id : DefId) (D : Definition) (t d : Nat) (sl : Slot), s.sub.active = false →
    s.cfg.definition? id = some D → s.holds id t sl → s.leastFreeContext d →
    exec (.init id) s = .next (({ s with
      slots := s.slots.set t { sl with decRefs := sl.decRefs + 1 }
      ctxs := s.ctxs.set d
        { inUse := true, defId := id, slot := BitVec.ofNat 8 t, rate := 0,
          forwards := true, signalLevel := 0, pitch := 0, seenCrossing := false, bitstream := 0,
          timecode := 0xFFFFFFFF, validCounter := 0, timecodeTicker := 0,
          primary := { positive := false, swapped := false, zero := 0, crossingTicker := 0, peak := 0 },
          secondary := { positive := false, swapped := false, zero := 0, crossingTicker := 0, peak := 0 } } }
      : State).answering (BitVec.ofNat 32 d) (BitVec.ofNat 32 t))

/-- R201, R106, R103: INIT of a legal definition that no slot holds builds its table in the least free slot, with one decoder
reference, and creates the least free context bound to it. The entries `0 .. 2^W-1` of the slot become `Build(D)`'s and no
other entry changes. -/
def Obligations.InitBuildsInTheLeastFreeSlot : Prop :=
  ∀ (s : State) (id : DefId) (D : Definition) (T : List Int) (t d : Nat), s.sub.active = false →
    Memory.wf s.mem = true → s.cfg.definition? id = some D → s.lacks id →
    fieldsLegal s.cfg D = true → build D = some T → s.leastFreeSlot t → s.leastFreeContext d →
    ∃ m : Memory,
      exec (.init id) s = .next (({ s with
        mem := m
        slots := s.slots.set t { valid := true, defId := id, extRefs := 0, decRefs := 1 }
        ctxs := s.ctxs.set d
          { inUse := true, defId := id, slot := BitVec.ofNat 8 t, rate := 0,
            forwards := true, signalLevel := 0, pitch := 0, seenCrossing := false, bitstream := 0,
            timecode := 0xFFFFFFFF, validCounter := 0, timecodeTicker := 0,
            primary := { positive := false, swapped := false, zero := 0, crossingTicker := 0, peak := 0 },
            secondary := { positive := false, swapped := false, zero := 0, crossingTicker := 0, peak := 0 } } }
        : State).answering (BitVec.ofNat 32 d) (BitVec.ofNat 32 t))
      ∧ (∀ i < 2 ^ D.W, Memory.read m (entryKey s.cfg t i) = tc32 (T.getD i (-1)))
      ∧ ∀ k, (∀ i < 2 ^ D.W, k ≠ entryKey s.cfg t i) → Memory.read m k = Memory.read s.mem k

/-- R105, R201, R223: what BUILD_LOOKUP and INIT raise, each cause with the causes before it absent, and with no effect. -/
def Obligations.BuildAndInitRaiseInOrder : Prop :=
  ∀ (s : State) (id : DefId), s.sub.active = false →
    (s.cfg.definition? id = none →
      exec (.buildLookup id) s = .next (s.refusing .unknownDef)
      ∧ exec (.init id) s = .next (s.refusing .unknownDef))
    ∧ ∀ D, s.cfg.definition? id = some D →
      ((∀ c ∈ s.ctxs, c.inUse = true) → exec (.init id) s = .next (s.refusing .resource))
      ∧ (s.lacks id →
        (fieldsLegal s.cfg D = false →
          exec (.buildLookup id) s = .next (s.refusing .badDefinition)
          ∧ ∀ d, s.leastFreeContext d → exec (.init id) s = .next (s.refusing .badDefinition))
        ∧ (fieldsLegal s.cfg D = true → (∀ sl ∈ s.slots, sl.valid = true) →
          exec (.buildLookup id) s = .next (s.refusing .resource)
          ∧ ∀ d, s.leastFreeContext d → exec (.init id) s = .next (s.refusing .resource))
        ∧ (fieldsLegal s.cfg D = true → build D = none → (∃ t, s.leastFreeSlot t) →
          exec (.buildLookup id) s = .next (s.refusing .badDefinition)
          ∧ ∀ d, s.leastFreeContext d → exec (.init id) s = .next (s.refusing .badDefinition)))

/-- R103, R105, R108, R112: after a BUILD_LOOKUP that built the table, READ_TABLE of the slot answers every entry of
`Build(D)`. -/
def Obligations.BuiltTableReadsBack : Prop :=
  ∀ (s s' : State) (id : DefId) (D : Definition) (T : List Int) (t : Handle) (index : Field24),
    Memory.wf s.mem = true → s.slots.length = s.cfg.ntab →
    s.sub.active = false → s.cfg.definition? id = some D → s.lacks id →
    fieldsLegal s.cfg D = true → build D = some T → s.leastFreeSlot t.toNat →
    exec (.buildLookup id) s = .next s' → index.toNat < 2 ^ D.W →
    exec (.readTable t index) s' = .next (s'.answering (tc32 (T.getD index.toNat (-1))) 0)

/-- R22: a command leaves every entry of a slot that is valid before it as it was. -/
def Obligations.ValidTablesAreReadOnly : Prop :=
  ∀ (i : Instr) (s t : State), Memory.wf s.mem = true → exec i s = .next t →
    ∀ (k : Nat) (sl : Slot), s.slots[k]? = some sl → sl.valid = true →
      ∀ j < 2 ^ s.cfg.wmax, t.entry k j = s.entry k j

/-! ### The LFSR and the table -/

/-- R101: `rev` inverts `fwd` on the `W`-bit states, in both directions, and both stay inside them. -/
def Obligations.LfsrStepIsABijection : Prop :=
  ∀ (D : Definition) (x : Nat), 1 ≤ D.W → x < 2 ^ D.W →
    fwd D x < 2 ^ D.W ∧ rev D x < 2 ^ D.W ∧ rev D (fwd D x) = x ∧ fwd D (rev D x) = x

/-- R101: the all-zero state is its own successor, and a legal seed never reaches it. -/
def Obligations.LfsrNeverReachesZero : Prop :=
  ∀ (cfg : Config) (D : Definition), fieldsLegal cfg D = true →
    fwd D 0 = 0 ∧ ∀ n, lfsrState D n ≠ 0 ∧ lfsrState D n < 2 ^ D.W

/-- R101, R102: the build fails exactly when a state repeats within `length` steps. -/
def Obligations.BuildFailsExactlyOnARepeat : Prop :=
  ∀ (cfg : Config) (D : Definition), fieldsLegal cfg D = true →
    (build D = none ↔ ∃ i j, i < j ∧ j < D.length ∧ lfsrState D i = lfsrState D j)

/-- R103, R111: a built table has `2^W` entries; the entry at the state of step `n < length` is `n`; every other entry is
-1; exactly `length` entries are not -1. -/
def Obligations.BuiltTableHoldsEachPositionOnce : Prop :=
  ∀ (cfg : Config) (D : Definition) (T : List Int), fieldsLegal cfg D = true → build D = some T →
    T.length = 2 ^ D.W
    ∧ (∀ n < D.length, T[lfsrState D n]? = some (n : Int))
    ∧ (∀ i v, T[i]? = some v → v ≠ -1 → ∃ n < D.length, v = (n : Int) ∧ lfsrState D n = i)
    ∧ (T.filter fun v => v != -1).length = D.length

/-- R167: after a forward read of the cycles `n-W+1 .. n`, from any window, the window is `s_n` and the lookup gives `n`. -/
def Obligations.ForwardReadResolvesItsCycle : Prop :=
  ∀ (cfg : Config) (D : Definition) (T : List Int) (n window : Nat),
    fieldsLegal cfg D = true → build D = some T → D.W ≤ n + 1 → n < D.length → window < 2 ^ D.W →
    readCycles D true (List.range' (n + 1 - D.W) D.W) window = lfsrState D n
    ∧ T.getD (readCycles D true (List.range' (n + 1 - D.W) D.W) window) (-1) = (n : Int)

/-- R168: after a reverse read of the cycles `m+W-1` down to `m`, from any window, the window is `s_{m+W-1}` and the lookup
gives `m+W-1`. -/
def Obligations.ReverseReadResolvesTheCycleAhead : Prop :=
  ∀ (cfg : Config) (D : Definition) (T : List Int) (m window : Nat),
    fieldsLegal cfg D = true → build D = some T → m + D.W ≤ D.length → window < 2 ^ D.W →
    readCycles D false (List.range' m D.W).reverse window = lfsrState D (m + D.W - 1)
    ∧ T.getD (readCycles D false (List.range' m D.W).reverse window) (-1) = ((m + D.W - 1 : Nat) : Int)

/-! ### The zero-crossing detector -/

/-- R122, R123, R126, R128: the event of a sample, written out: a crossing is confirmed iff the sample lies strictly on the
other side of the zero-level, the peak passes the gate and the channel is not held; the event carries the new polarity and
the interval. -/
def Obligations.CrossingIsConfirmedExactlyWhen : Prop :=
  ∀ (cfg : Config) (h : Handle) (c : ChannelId) (v : Int) (d : Context) (e : Event),
    (zeroCross cfg h c v d).2 = some e ↔
      ((d.channel c).swapped = false
        ∧ (if (d.channel c).positive then v * 2 ^ 16 < (d.channel c).zero.toInt
           else (d.channel c).zero.toInt < v * 2 ^ 16)
        ∧ cfg.gateFloor * 2 ^ 16 < (d.channel c).peak.toNat
        ∧ d.signalLevel.toNat * cfg.gateNum / 2 ^ cfg.gateShift < (d.channel c).peak.toNat
        ∧ e.decoder = h ∧ e.channel = c ∧ e.polarity = !(d.channel c).positive
        ∧ e.interval.toNat = min ((d.channel c).crossingTicker.toNat + 1) (2 ^ 32 - 1))

/-- R130: the zero-crossing stage seen as the state machine of R37. `thr` is the gate's threshold of R123. -/
def Obligations.CrossingStateMachine : Prop :=
  ∀ (cfg : Config) (h : Handle) (c : ChannelId) (v : Int) (d : Context),
    let ch := d.channel c
    let ch' := (zeroCross cfg h c v d).1.channel c
    let dev := v * 2 ^ 16 - ch.zero.toInt
    let opens := max (cfg.gateFloor * 2 ^ 16) (d.signalLevel.toNat * cfg.gateNum / 2 ^ cfg.gateShift) < ch.peak.toNat
    (crossingState ch = .armedNegative → 0 < dev → opens →
      ch'.positive = true ∧ crossingState ch' = if 1 < cfg.guard then .idle else .armedPositive)
    ∧ (crossingState ch = .armedPositive → dev < 0 → opens →
      ch'.positive = false ∧ crossingState ch' = if 1 < cfg.guard then .idle else .armedNegative)
    ∧ (crossingState ch = .idle → cfg.guard ≤ min (ch.crossingTicker.toNat + 1) (2 ^ 32 - 1) + 1 →
      crossingState ch' = if ch.positive then .armedPositive else .armedNegative)
    ∧ (crossingState ch = .idle → ¬ cfg.guard ≤ min (ch.crossingTicker.toNat + 1) (2 ^ 32 - 1) + 1 →
      crossingState ch' = .idle)
    ∧ (crossingState ch = .armedNegative → ¬ (0 < dev ∧ opens) → crossingState ch' = .armedNegative)
    ∧ (crossingState ch = .armedPositive → ¬ (dev < 0 ∧ opens) → crossingState ch' = .armedPositive)

/-- R121, R124, R125: after a sample the zero-level lies between its old value and the sample, the signal level between its
old value and the absolute deviation, and the ranges of R26 and R33 are kept. The other channel is not touched. -/
def Obligations.EstimatesMoveTowardTheSample : Prop :=
  ∀ (cfg : Config) (h : Handle) (c : ChannelId) (v : Int) (d : Context),
    -32768 ≤ v → v ≤ 32767 → channelWf (d.channel c) = true → d.signalLevel.toNat ≤ 2 ^ 32 - 2 ^ 16 →
    let d' := (zeroCross cfg h c v d).1
    let zero := (d.channel c).zero.toInt
    let zero' := (d'.channel c).zero.toInt
    let adev := (v * 2 ^ 16 - zero).natAbs
    (min zero (v * 2 ^ 16) ≤ zero' ∧ zero' ≤ max zero (v * 2 ^ 16))
    ∧ (min d.signalLevel.toNat adev ≤ d'.signalLevel.toNat ∧ d'.signalLevel.toNat ≤ max d.signalLevel.toNat adev)
    ∧ channelWf (d'.channel c) = true ∧ d'.signalLevel.toNat ≤ 2 ^ 32 - 2 ^ 16
    ∧ (∀ c', c' ≠ c → d'.channel c' = d.channel c')

/-- R123 to R127: `thr`, taken from the signal level before the sample, and every field of the channel and the signal level
after it: the zero-level and the signal level move by the floor of their distance over a power of two, whether or not a
crossing is confirmed; a confirmed crossing, which needs a peak above `thr`, flips the polarity and restarts ticker and peak,
any other sample counts the ticker on and keeps the larger peak. -/
def Obligations.ChannelAfterASample : Prop :=
  ∀ (cfg : Config) (h : Handle) (c : ChannelId) (v : Int) (d : Context),
    -32768 ≤ v → v ≤ 32767 → channelWf (d.channel c) = true → d.signalLevel.toNat ≤ 2 ^ 32 - 2 ^ 16 →
    let ch := d.channel c
    let d' := (zeroCross cfg h c v d).1
    let ch' := d'.channel c
    let dev := v * 2 ^ 16 - ch.zero.toInt
    gateThreshold cfg d.signalLevel =
        max (cfg.gateFloor * 2 ^ 16) (d.signalLevel.toNat * cfg.gateNum / 2 ^ cfg.gateShift)
    ∧ ch'.zero.toInt = ch.zero.toInt + dev / 2 ^ cfg.zeroShift
    ∧ (d'.signalLevel.toNat : Int) =
        d.signalLevel.toNat + ((dev.natAbs : Int) - d.signalLevel.toNat) / 2 ^ cfg.signalShift
    ∧ ((zeroCross cfg h c v d).2.isSome = true →
        gateThreshold cfg d.signalLevel < ch.peak.toNat
        ∧ ch'.positive = !ch.positive ∧ ch'.crossingTicker = 0 ∧ ch'.peak.toNat = dev.natAbs
        ∧ ch'.swapped = decide (1 < cfg.guard))
    ∧ ((zeroCross cfg h c v d).2 = none →
        ch'.positive = ch.positive
        ∧ ch'.crossingTicker.toNat = min (ch.crossingTicker.toNat + 1) (2 ^ 32 - 1)
        ∧ ch'.peak.toNat = max ch.peak.toNat dev.natAbs
        ∧ (ch'.swapped = true ↔ ch.swapped = true ∧ ch'.crossingTicker.toNat + 1 < cfg.guard))

/-- R127: two confirmed crossings of one channel are at least `max(GUARD, 1)` frames apart; and for `GUARD ≥ 2` the channel
is held at the start of each of the `GUARD - 1` frames after a crossing and no longer held at the start of the next. -/
def Obligations.CrossingsAreAtLeastGuardApart : Prop :=
  ∀ (cfg : Config) (c : ChannelId) (us vs : List (Int × Int)) (v w : Int × Int) (d : Context),
    cfg.guard ≤ 2 ^ 32 - 1 → crossesAfter cfg c us v d = true →
    (crossesAfter cfg c (us ++ v :: vs) w d = true → max cfg.guard 1 ≤ vs.length + 1)
    ∧ (2 ≤ cfg.guard → vs.length + 1 ≤ cfg.guard →
        (((afterFrames cfg (us ++ v :: vs) d).channel c).swapped = true ↔ vs.length + 1 < cfg.guard))

/-- R129: a channel that starts as INIT and CLEAR leave it and is given only samples with `abs(v) ≤ floor(GATE_FLOOR / 2)`
confirms no crossing, whatever the other channel does. -/
def Obligations.NoiseBelowTheFloorNeverCrosses : Prop :=
  ∀ (cfg : Config) (c : ChannelId) (vs : List (Int × Int)) (v : Int × Int) (d : Context),
    cfg.gateFloor ≤ 32767 → d.channel c = Channel.initial →
    (∀ u ∈ vs, (sampleOf c u).natAbs ≤ cfg.gateFloor / 2) → (sampleOf c v).natAbs ≤ cfg.gateFloor / 2 →
    crossesAfter cfg c vs v d = false

/-- R190: in a run of silent frames each channel confirms at most one crossing. -/
def Obligations.SilenceCrossesAtMostOnce : Prop :=
  ∀ (cfg : Config) (c : ChannelId) (m n : Nat) (d : Context), m < n →
    crossesAfter cfg c (List.replicate m (0, 0)) (0, 0) d = true →
    crossesAfter cfg c (List.replicate n (0, 0)) (0, 0) d = false

/-! ### The bit extractor and the resolver -/

/-- R143, R144: with no crossing the direction update writes nothing; with one it sets `seen_crossing`, sets `forwards` by
the polarities (the primary's test where it crossed, inverted by flag 0), and clears `valid_counter` iff the direction
changed; it writes nothing else. -/
def Obligations.DirectionFollowsThePolarities : Prop :=
  ∀ (D : Definition) (xp xs : Bool) (d : Context),
    (xp = false → xs = false → direction D xp xs d = d)
    ∧ (xp = true ∨ xs = true →
      ∃ f : Bool, direction D xp xs d =
          { d with seenCrossing := true, forwards := f,
                   validCounter := if f = d.forwards then d.validCounter else 0 }
        ∧ (D.flags % 2 = 0 → xp = true → (f = true ↔ d.primary.positive ≠ d.secondary.positive))
        ∧ (D.flags % 2 = 0 → xp = false → (f = true ↔ d.primary.positive = d.secondary.positive))
        ∧ (D.flags % 2 = 1 → xp = true → (f = true ↔ d.primary.positive = d.secondary.positive))
        ∧ (D.flags % 2 = 1 → xp = false → (f = true ↔ d.primary.positive ≠ d.secondary.positive)))

/-- R146, R147: with `Pnom = rate·2^16 / (R·p)`, a forward bit is 1 iff `T > (BND_NUM/BND_DEN)·Pnom`, a reverse bit iff
`T < (1/2 - BND_NUM/BND_DEN)·Pnom`, as rational numbers; a pitch of 0 counts as 1.0. -/
def Obligations.ClassifierComparesWithTheBoundary : Prop :=
  ∀ (cfg : Config) (D : Definition) (d : Context), 1 ≤ D.R → 1 ≤ cfg.bndDen →
    let p : ℚ := if d.pitch = 0 then 2 ^ 16 else (d.pitch.toNat : ℚ)
    let period : ℚ := (d.rate.toNat : ℚ) * 2 ^ 16 / ((D.R : ℚ) * p)
    let boundary : ℚ := (cfg.bndNum : ℚ) / (cfg.bndDen : ℚ)
    let offset : ℚ := (d.primary.crossingTicker.toNat : ℚ)
    (d.forwards = true → (classify cfg D d = true ↔ boundary * period < offset))
    ∧ (d.forwards = false → (classify cfg D d = true ↔ offset < (1 / 2 - boundary) * period))

/-- R28, R160, R161: shifting a bit in keeps the window inside `W` bits, puts the bit at its end and moves the others one
place: toward bit 0 forward, away from it in reverse. -/
def Obligations.ShiftKeepsTheWindow : Prop :=
  ∀ (D : Definition) (b : Bool) (window : Nat), 1 ≤ D.W → window < 2 ^ D.W →
    (shiftIn D true b window < 2 ^ D.W
      ∧ ∀ k, (shiftIn D true b window).testBit k =
          if k = D.W - 1 then b else window.testBit (k + 1))
    ∧ (shiftIn D false b window < 2 ^ D.W
      ∧ ∀ k, (shiftIn D false b window).testBit k =
          if k = 0 then b else (decide (k < D.W) && window.testBit (k - 1)))

/-- R162, R163, R166: resolving a bit shifts it in and looks the window up; a hit sets the timecode, clears the ticker and
counts up to `2^32-1`; a miss keeps timecode and ticker and resets the count or takes one from it. Nothing else of the context
changes. -/
def Obligations.ResolveTracksHitsAndMisses : Prop :=
  ∀ (s : State) (D : Definition) (b : Bool) (d : Context), 1 ≤ D.W → D.W ≤ s.cfg.wmax → s.cfg.wmax ≤ 24 →
    d.slot.toNat < s.cfg.ntab → d.bitstream.toNat < 2 ^ D.W →
    ∃ d', resolve s D b d = some d'
      ∧ d'.bitstream.toNat = shiftIn D d.forwards b d.bitstream.toNat
      ∧ (s.entry d.slot.toNat d'.bitstream.toNat ≠ 0xFFFFFFFF →
          d' = { d with bitstream := d'.bitstream
                        timecode := s.entry d.slot.toNat d'.bitstream.toNat
                        timecodeTicker := 0
                        validCounter := d'.validCounter }
          ∧ d'.validCounter.toNat = min (d.validCounter.toNat + 1) (2 ^ 32 - 1))
      ∧ (s.entry d.slot.toNat d'.bitstream.toNat = 0xFFFFFFFF →
          d' = { d with bitstream := d'.bitstream, validCounter := d'.validCounter }
          ∧ d'.validCounter.toNat =
              match s.cfg.missPolicy with
              | .reset => 0
              | .decrement => d.validCounter.toNat - 1)

/-- R165, R182, R39: liveness over one frame. A frame without a hit counts the ticker on and keeps the timecode; a LOST context
leaves LOST only on a hit, and is then ALIVE where `CONFIRM = 0`, else SEARCHING; a context that is LOST after the frame has
the count 0; at the end of the frame a positive count implies a ticker of at most `TIMEOUT`. -/
def Obligations.LivenessOverOneFrame : Prop :=
  ∀ (s : State) (h : Handle) (s0 s1 : SampleBits) (d d' : Context) (evs : List Event),
    s.cfg.timeout ≤ 2 ^ 32 - 2 → frame s h s0 s1 d = .ok (d', evs) →
    (d'.timecodeTicker ≠ 0 → d'.timecodeTicker.toNat = min (d.timecodeTicker.toNat + 1) (2 ^ 32 - 1)
      ∧ d'.timecode = d.timecode)
    ∧ (liveness s.cfg d = .lost → d'.timecodeTicker ≠ 0 → liveness s.cfg d' = .lost)
    ∧ (liveness s.cfg d = .lost → d'.timecodeTicker = 0 →
        liveness s.cfg d' = if s.cfg.confirm = 0 then .alive else .searching)
    ∧ (liveness s.cfg d' = .lost → d'.validCounter = 0)
    ∧ (d'.validCounter ≠ 0 → d'.timecodeTicker.toNat ≤ s.cfg.timeout)

/-- R141, R145, R207: the stages of a frame in their order: flag 1 assigns the samples to the channels; the primary and then
the secondary go through the zero-crossing stage, then the direction, then the tick; a bit is classified and resolved iff the
secondary crossed while the primary has the polarity flag 2 asks for. The events are the primary's, then the secondary's. -/
def Obligations.FrameRunsItsStagesInOrder : Prop :=
  ∀ (s : State) (h : Handle) (s0 s1 : SampleBits) (d : Context) (D : Definition),
    s.cfg.definition? d.defId = some D →
    let vp := if D.flags / 2 % 2 = 1 then s1.toInt else s0.toInt
    let vs := if D.flags / 2 % 2 = 1 then s0.toInt else s1.toInt
    let p := zeroCross s.cfg h .primary vp d
    let q := zeroCross s.cfg h .secondary vs p.1
    let d1 := tick s.cfg (direction D p.2.isSome q.2.isSome q.1)
    let evs := p.2.toList ++ q.2.toList
    let reads := q.2 ≠ none ∧ (d1.primary.positive = true ↔ D.flags / 4 % 2 = 0)
    (¬ reads → frame s h s0 s1 d = .ok (d1, evs))
    ∧ (reads → ∀ d2, resolve s D (classify s.cfg D d1) d1 = some d2 → frame s h s0 s1 d = .ok (d2, evs))

/-- R63, R207, R128: a frame keeps the context's binding, rate and pitch, and emits at most one event of each channel, the
primary's first, all of its own context. -/
def Obligations.FrameKeepsTheBinding : Prop :=
  ∀ (s : State) (h : Handle) (s0 s1 : SampleBits) (d d' : Context) (evs : List Event),
    frame s h s0 s1 d = .ok (d', evs) →
    d'.inUse = d.inUse ∧ d'.defId = d.defId ∧ d'.slot = d.slot ∧ d'.rate = d.rate ∧ d'.pitch = d.pitch
    ∧ (∀ e ∈ evs, e.decoder = h)
    ∧ (evs.map (·.channel)) ∈ ([[], [.primary], [.secondary], [.primary, .secondary]] : List (List ChannelId))

/-! ### SAMPLE -/

/-- R205, R207: in a well-formed state with the window open, SAMPLE runs one frame of the window's context and counts it; the
last frame closes the window and answers the count. Nothing else changes. -/
def Obligations.SampleRunsOneFrame : Prop :=
  ∀ (s : State) (s0 s1 : SampleBits), s.wellFormed = true → s.sub.active = true →
    ∃ (d d' : Context) (evs : List Event),
      s.uses s.sub.handle d ∧ frame s s.sub.handle s0 s1 d = .ok (d', evs)
      ∧ (s.sub.remaining ≠ 1 →
          exec (.sample s0 s1) s = .next { s with
            ctxs := s.ctxs.set s.sub.handle.toNat d'
            events := s.events ++ evs
            sub := { s.sub with remaining := s.sub.remaining - 1 } })
      ∧ (s.sub.remaining = 1 →
          exec (.sample s0 s1) s = .next (({ s with
            ctxs := s.ctxs.set s.sub.handle.toNat d'
            events := s.events ++ evs
            sub := { s.sub with remaining := 0, active := false } } : State).answering
              (s.sub.count.setWidth 32) 0))

/-- R204, R205, R206: a SUBMIT of `n ≥ 1` frames followed by `n` SAMPLE commands completes, answers once, with the count, and
closes the window; after the SUBMIT and any `k < n` of the frames nothing has been answered and the window is open with `n - k`
frames to come. Slots, table memory, parameters and every other context are as before. -/
def Obligations.SubmissionAnswersOnceAtItsLastFrame : Prop :=
  ∀ (s : State) (d : Handle) (c : Context) (count rate : Field24) (frames : List (SampleBits × SampleBits)),
    s.wellFormed = true → s.sub.active = false → s.uses d c → rate ≠ 0 → count ≠ 0 →
    frames.length = count.toNat →
    (∀ k < count.toNat, ∃ u,
      execAll (.submit d count rate :: (frames.take k).map fun p => .sample p.1 p.2) s = .next u
      ∧ u.responses = s.responses ∧ u.sub.active = true ∧ u.sub.remaining.toNat = count.toNat - k)
    ∧ ∃ t, execAll (.submit d count rate :: frames.map fun p => .sample p.1 p.2) s = .next t
      ∧ t.responses = s.responses ++ [{ status := .ok, data0 := count.setWidth 32, data1 := 0 }]
      ∧ t.sub.active = false ∧ t.slots = s.slots ∧ t.mem = s.mem ∧ t.cfg = s.cfg
      ∧ ∀ k, k ≠ d.toNat → t.ctxs[k]? = s.ctxs[k]?

/-! ### The whole machine -/

/-- R29, R39, R186: in a well-formed state GET_POSITION answers `(0xFFFFFFFF, 0)`, or a position in `[0, length)` of the bound
definition with an age of at most `TIMEOUT` frames. -/
def Obligations.SurfacedPositionIsInTheSequence : Prop :=
  ∀ (s : State) (d : Handle) (c : Context) (D : Definition), s.wellFormed = true → s.sub.active = false →
    s.uses d c → s.cfg.definition? c.defId = some D →
    exec (.getPosition d) s = .next (s.answering 0xFFFFFFFF 0)
    ∨ ∃ v age : Word, exec (.getPosition d) s = .next (s.answering v age)
        ∧ v.toNat < D.length ∧ age.toNat ≤ s.cfg.timeout

/-- R21, R22, R26 to R29, R33, R34, R39, R50: every step keeps the invariant of the block. -/
def Obligations.EveryStepKeepsWellFormed : Prop :=
  ∀ s t : State, s.wellFormed = true → step s = .next t → t.wellFormed = true

/-- R240: power-on with legal parameters and any registry has the invariant. -/
def Obligations.PowerOnIsWellFormed : Prop :=
  ∀ cfg : Config, cfg.legal = true → (State.powerOn cfg).wellFormed = true

/-- R200, R225: in a well-formed state with a word on the port the step completes: no fault and no refusal. -/
def Obligations.WellFormedStepsComplete : Prop :=
  ∀ s : State, s.wellFormed = true → s.port ≠ [] → ∃ t, step s = .next t

/-- Every step keeps the canonical form of the table memory, which is the model's choice (log entry 9, DESIGN CHOICE). -/
def Obligations.EveryStepKeepsMemoryForm : Prop :=
  ∀ s t : State, Memory.wf s.mem = true → step s = .next t → Memory.wf t.mem = true

/-- R63, R234: a command leaves every context it does not name as it was. A SAMPLE names the window's context, an INIT the
least free one. -/
def Obligations.OtherContextsAreUntouched : Prop :=
  ∀ (i : Instr) (s t : State) (d : Handle), exec i s = .next t → d.toNat < s.ctxs.length →
    (i = .clear d ∨ i = .destroy d ∨ (∃ n r, i = .submit d n r) ∨ (∃ p, i = .setPitch d p)
      ∨ ((∃ a b, i = .sample a b) ∧ s.sub.handle = d)
      ∨ ((∃ id, i = .init id) ∧ s.leastFreeContext d.toNat))
    ∨ t.ctxs[d.toNat]? = s.ctxs[d.toNat]?

/-- R21, R34, R41, R240: what power-on leaves: every slot free with no references, no context in use, the window closed,
both traces empty, one slot and context for each index. -/
def Obligations.PowerOnLeavesEverythingFree : Prop :=
  ∀ cfg : Config,
    let s := State.powerOn cfg
    s.slots.length = cfg.ntab ∧ s.ctxs.length = cfg.ndec
    ∧ (∀ sl ∈ s.slots, sl = { valid := false, defId := 0, extRefs := 0, decRefs := 0 })
    ∧ (∀ c ∈ s.ctxs, c.inUse = false ∧ c.defId = 0 ∧ c.slot = 0)
    ∧ s.sub = { active := false, handle := 0, count := 0, remaining := 0 }
    ∧ s.responses = [] ∧ s.events = []
end

