-- ==== Sys2Proof/Laws/Encoding.lean ====
section
/-! SUPPORT. Fields placed in a command word: reading one back, and masking it (30_encoding R70, R71). -/

namespace Sys2Proof

/-- A placed field reads back. -/
theorem extract_place_same {n : Nat} (lo : Nat) (v : BitVec n) (h : lo + n ≤ 64) :
    (place lo v).extractLsb' lo n = v := by
  unfold place
  ext i hi
  rw [BitVec.getElem_extractLsb', BitVec.getLsbD_shiftLeft, BitVec.getLsbD_setWidth,
    ← BitVec.getLsbD_eq_getElem, show lo + i - lo = i by omega]
  simp only [show lo + i < 64 by omega, show i < 64 by omega, show ¬ lo + i < lo by omega, decide_true,
    decide_false, Bool.not_false, Bool.true_and]

/-- A placed field reads as 0 where the read does not reach it. -/
theorem extract_place_disjoint {n : Nat} (lo lo' m : Nat) (v : BitVec n) (h : lo + n ≤ lo' ∨ lo' + m ≤ lo) :
    (place lo v).extractLsb' lo' m = 0 := by
  unfold place
  ext i hi
  simp only [BitVec.getElem_extractLsb', BitVec.getLsbD_shiftLeft, BitVec.getLsbD_setWidth,
    BitVec.ofNat_eq_ofNat, BitVec.getElem_zero, Bool.and_eq_false_iff, decide_eq_false_iff_not, Bool.not_eq_false']
  rcases h with h | h
  · exact Or.inr (Or.inr (BitVec.getLsbD_of_ge _ _ (by omega)))
  · exact Or.inl (Or.inr (by simpa using (by omega : lo' + i < lo)))

/-- Reading a field of a union of words. -/
theorem extract_or (w w' : CommandWord) (lo m : Nat) :
    (w ||| w').extractLsb' lo m = w.extractLsb' lo m ||| w'.extractLsb' lo m := by
  ext i hi
  simp

/-- A placed field is cleared by a mask that is 0 on it. -/
theorem place_and_clear {n : Nat} (lo : Nat) (v : BitVec n) (M : CommandWord)
    (h : ∀ j < n, M.getLsbD (lo + j) = false) : place lo v &&& M = 0 := by
  unfold place
  ext i hi
  simp only [BitVec.getElem_and, BitVec.getElem_shiftLeft, BitVec.ofNat_eq_ofNat, BitVec.getElem_zero]
  by_cases hlo : i < lo
  · simp [hlo]
  · by_cases hn : i - lo < n
    · have := h (i - lo) hn
      rw [show lo + (i - lo) = i by omega] at this
      rw [show M[i] = false from this ▸ (BitVec.getLsbD_eq_getElem hi).symm, Bool.and_false]
    · simp [hlo, BitVec.getLsbD_of_ge v (i - lo) (by omega)]

/-- A placed field is kept by a mask that is 1 on it. -/
theorem place_and_keep {n : Nat} (lo : Nat) (v : BitVec n) (M : CommandWord)
    (h : ∀ j < n, M.getLsbD (lo + j) = true) : place lo v &&& M = place lo v := by
  unfold place
  ext i hi
  simp only [BitVec.getElem_and, BitVec.getElem_shiftLeft]
  by_cases hlo : i < lo
  · simp [hlo]
  · by_cases hn : i - lo < n
    · have := h (i - lo) hn
      rw [show lo + (i - lo) = i by omega] at this
      rw [show M[i] = true from this ▸ (BitVec.getLsbD_eq_getElem hi).symm, Bool.and_true]
    · simp [hlo, BitVec.getLsbD_of_ge v (i - lo) (by omega)]

/-- Masking a union of words. -/
theorem or_and (w w' M : CommandWord) : (w ||| w') &&& M = (w &&& M) ||| (w' &&& M) := by
  ext i hi
  simp [Bool.and_or_distrib_right]

theorem opcodeOf_number (op : Opcode) : opcodeOf (opcodeNumber op) = some op := by
  cases op <;> rfl

end Sys2Proof
end

