-- ==== Sys2Proof/Laws/State.lean ====
section
/-! SUPPORT. One lemma per field per named update of State, and the channel accessors of Context. -/

namespace Sys2Proof.Machine

@[simp] theorem respond_cfg (s : State) (e : Status) (a b : Word) : (s.respond e a b).cfg = s.cfg := rfl
@[simp] theorem respond_port (s : State) (e : Status) (a b : Word) : (s.respond e a b).port = s.port := rfl
@[simp] theorem respond_slots (s : State) (e : Status) (a b : Word) : (s.respond e a b).slots = s.slots := rfl
@[simp] theorem respond_mem (s : State) (e : Status) (a b : Word) : (s.respond e a b).mem = s.mem := rfl
@[simp] theorem respond_ctxs (s : State) (e : Status) (a b : Word) : (s.respond e a b).ctxs = s.ctxs := rfl
@[simp] theorem respond_sub (s : State) (e : Status) (a b : Word) : (s.respond e a b).sub = s.sub := rfl
@[simp] theorem respond_responses (s : State) (e : Status) (a b : Word) : (s.respond e a b).responses = s.responses ++ [{ status := e, data0 := a, data1 := b }] := rfl
@[simp] theorem respond_events (s : State) (e : Status) (a b : Word) : (s.respond e a b).events = s.events := rfl

@[simp] theorem emit_cfg (s : State) (evs : List Event) : (s.emit evs).cfg = s.cfg := rfl
@[simp] theorem emit_port (s : State) (evs : List Event) : (s.emit evs).port = s.port := rfl
@[simp] theorem emit_slots (s : State) (evs : List Event) : (s.emit evs).slots = s.slots := rfl
@[simp] theorem emit_mem (s : State) (evs : List Event) : (s.emit evs).mem = s.mem := rfl
@[simp] theorem emit_ctxs (s : State) (evs : List Event) : (s.emit evs).ctxs = s.ctxs := rfl
@[simp] theorem emit_sub (s : State) (evs : List Event) : (s.emit evs).sub = s.sub := rfl
@[simp] theorem emit_responses (s : State) (evs : List Event) : (s.emit evs).responses = s.responses := rfl
@[simp] theorem emit_events (s : State) (evs : List Event) : (s.emit evs).events = s.events ++ evs := rfl

@[simp] theorem setSlot_cfg (s : State) (k : Nat) (sl : Slot) : (s.setSlot k sl).cfg = s.cfg := rfl
@[simp] theorem setSlot_port (s : State) (k : Nat) (sl : Slot) : (s.setSlot k sl).port = s.port := rfl
@[simp] theorem setSlot_slots (s : State) (k : Nat) (sl : Slot) : (s.setSlot k sl).slots = s.slots.set k sl := rfl
@[simp] theorem setSlot_mem (s : State) (k : Nat) (sl : Slot) : (s.setSlot k sl).mem = s.mem := rfl
@[simp] theorem setSlot_ctxs (s : State) (k : Nat) (sl : Slot) : (s.setSlot k sl).ctxs = s.ctxs := rfl
@[simp] theorem setSlot_sub (s : State) (k : Nat) (sl : Slot) : (s.setSlot k sl).sub = s.sub := rfl
@[simp] theorem setSlot_responses (s : State) (k : Nat) (sl : Slot) : (s.setSlot k sl).responses = s.responses := rfl
@[simp] theorem setSlot_events (s : State) (k : Nat) (sl : Slot) : (s.setSlot k sl).events = s.events := rfl

@[simp] theorem setMem_cfg (s : State) (m : Memory) : (s.setMem m).cfg = s.cfg := rfl
@[simp] theorem setMem_port (s : State) (m : Memory) : (s.setMem m).port = s.port := rfl
@[simp] theorem setMem_slots (s : State) (m : Memory) : (s.setMem m).slots = s.slots := rfl
@[simp] theorem setMem_mem (s : State) (m : Memory) : (s.setMem m).mem = m := rfl
@[simp] theorem setMem_ctxs (s : State) (m : Memory) : (s.setMem m).ctxs = s.ctxs := rfl
@[simp] theorem setMem_sub (s : State) (m : Memory) : (s.setMem m).sub = s.sub := rfl
@[simp] theorem setMem_responses (s : State) (m : Memory) : (s.setMem m).responses = s.responses := rfl
@[simp] theorem setMem_events (s : State) (m : Memory) : (s.setMem m).events = s.events := rfl

@[simp] theorem setContext_cfg (s : State) (k : Nat) (c : Context) : (s.setContext k c).cfg = s.cfg := rfl
@[simp] theorem setContext_port (s : State) (k : Nat) (c : Context) : (s.setContext k c).port = s.port := rfl
@[simp] theorem setContext_slots (s : State) (k : Nat) (c : Context) : (s.setContext k c).slots = s.slots := rfl
@[simp] theorem setContext_mem (s : State) (k : Nat) (c : Context) : (s.setContext k c).mem = s.mem := rfl
@[simp] theorem setContext_ctxs (s : State) (k : Nat) (c : Context) : (s.setContext k c).ctxs = s.ctxs.set k c := rfl
@[simp] theorem setContext_sub (s : State) (k : Nat) (c : Context) : (s.setContext k c).sub = s.sub := rfl
@[simp] theorem setContext_responses (s : State) (k : Nat) (c : Context) : (s.setContext k c).responses = s.responses := rfl
@[simp] theorem setContext_events (s : State) (k : Nat) (c : Context) : (s.setContext k c).events = s.events := rfl

@[simp] theorem setSub_cfg (s : State) (w : Window) : (s.setSub w).cfg = s.cfg := rfl
@[simp] theorem setSub_port (s : State) (w : Window) : (s.setSub w).port = s.port := rfl
@[simp] theorem setSub_slots (s : State) (w : Window) : (s.setSub w).slots = s.slots := rfl
@[simp] theorem setSub_mem (s : State) (w : Window) : (s.setSub w).mem = s.mem := rfl
@[simp] theorem setSub_ctxs (s : State) (w : Window) : (s.setSub w).ctxs = s.ctxs := rfl
@[simp] theorem setSub_sub (s : State) (w : Window) : (s.setSub w).sub = w := rfl
@[simp] theorem setSub_responses (s : State) (w : Window) : (s.setSub w).responses = s.responses := rfl
@[simp] theorem setSub_events (s : State) (w : Window) : (s.setSub w).events = s.events := rfl

@[simp] theorem refusing_cfg (s : State) (e : Status) : (s.refusing e).cfg = s.cfg := rfl
@[simp] theorem refusing_port (s : State) (e : Status) : (s.refusing e).port = s.port := rfl
@[simp] theorem refusing_slots (s : State) (e : Status) : (s.refusing e).slots = s.slots := rfl
@[simp] theorem refusing_mem (s : State) (e : Status) : (s.refusing e).mem = s.mem := rfl
@[simp] theorem refusing_ctxs (s : State) (e : Status) : (s.refusing e).ctxs = s.ctxs := rfl
@[simp] theorem refusing_sub (s : State) (e : Status) : (s.refusing e).sub = s.sub := rfl
@[simp] theorem refusing_responses (s : State) (e : Status) : (s.refusing e).responses = s.responses ++ [{ status := e, data0 := 0, data1 := 0 }] := rfl
@[simp] theorem refusing_events (s : State) (e : Status) : (s.refusing e).events = s.events := rfl

@[simp] theorem answering_cfg (s : State) (a b : Word) : (s.answering a b).cfg = s.cfg := rfl
@[simp] theorem answering_port (s : State) (a b : Word) : (s.answering a b).port = s.port := rfl
@[simp] theorem answering_slots (s : State) (a b : Word) : (s.answering a b).slots = s.slots := rfl
@[simp] theorem answering_mem (s : State) (a b : Word) : (s.answering a b).mem = s.mem := rfl
@[simp] theorem answering_ctxs (s : State) (a b : Word) : (s.answering a b).ctxs = s.ctxs := rfl
@[simp] theorem answering_sub (s : State) (a b : Word) : (s.answering a b).sub = s.sub := rfl
@[simp] theorem answering_responses (s : State) (a b : Word) : (s.answering a b).responses = s.responses ++ [{ status := .ok, data0 := a, data1 := b }] := rfl
@[simp] theorem answering_events (s : State) (a b : Word) : (s.answering a b).events = s.events := rfl

@[simp] theorem setChannel_inUse (d : Context) (c : ChannelId) (ch : Channel) :
    (d.setChannel c ch).inUse = d.inUse := by cases c <;> rfl
@[simp] theorem setChannel_defId (d : Context) (c : ChannelId) (ch : Channel) :
    (d.setChannel c ch).defId = d.defId := by cases c <;> rfl
@[simp] theorem setChannel_slot (d : Context) (c : ChannelId) (ch : Channel) :
    (d.setChannel c ch).slot = d.slot := by cases c <;> rfl
@[simp] theorem setChannel_forwards (d : Context) (c : ChannelId) (ch : Channel) :
    (d.setChannel c ch).forwards = d.forwards := by cases c <;> rfl
@[simp] theorem setChannel_rate (d : Context) (c : ChannelId) (ch : Channel) :
    (d.setChannel c ch).rate = d.rate := by cases c <;> rfl
@[simp] theorem setChannel_signalLevel (d : Context) (c : ChannelId) (ch : Channel) :
    (d.setChannel c ch).signalLevel = d.signalLevel := by cases c <;> rfl
@[simp] theorem setChannel_pitch (d : Context) (c : ChannelId) (ch : Channel) :
    (d.setChannel c ch).pitch = d.pitch := by cases c <;> rfl
@[simp] theorem setChannel_seenCrossing (d : Context) (c : ChannelId) (ch : Channel) :
    (d.setChannel c ch).seenCrossing = d.seenCrossing := by cases c <;> rfl
@[simp] theorem setChannel_bitstream (d : Context) (c : ChannelId) (ch : Channel) :
    (d.setChannel c ch).bitstream = d.bitstream := by cases c <;> rfl
@[simp] theorem setChannel_timecode (d : Context) (c : ChannelId) (ch : Channel) :
    (d.setChannel c ch).timecode = d.timecode := by cases c <;> rfl
@[simp] theorem setChannel_validCounter (d : Context) (c : ChannelId) (ch : Channel) :
    (d.setChannel c ch).validCounter = d.validCounter := by cases c <;> rfl
@[simp] theorem setChannel_timecodeTicker (d : Context) (c : ChannelId) (ch : Channel) :
    (d.setChannel c ch).timecodeTicker = d.timecodeTicker := by cases c <;> rfl

@[simp] theorem channel_setChannel (d : Context) (c : ChannelId) (ch : Channel) :
    (d.setChannel c ch).channel c = ch := by cases c <;> rfl

theorem channel_setChannel_of_ne (d : Context) {c c' : ChannelId} (h : c' ≠ c) (ch : Channel) :
    (d.setChannel c ch).channel c' = d.channel c' := by
  cases c <;> cases c' <;> first | rfl | exact absurd rfl h

@[simp] theorem channel_signalLevel (d : Context) (c : ChannelId) (v : Word) :
    ({ d with signalLevel := v } : Context).channel c = d.channel c := by cases c <;> rfl

theorem raise_eq (s : State) (e : Status) : raise s e = .next (s.refusing e) := rfl

theorem answer_eq (s : State) (a b : Word) : answer s a b = .next (s.answering a b) := rfl

end Sys2Proof.Machine
end

