-- ==== Sys2Proof/Laws/Memory.lean ====
section
/-! SUPPORT. The table memory: read after write, the canonical form, and what writing a whole table does (20_memory R50 to R56,
40_table_builder R103). -/

namespace Sys2Proof.Machine

@[simp] theorem Memory.read_nil (k : Nat) : Memory.read [] k = sentinel := rfl

/-- Every listed key is above `a`. -/
def Memory.above (a : Nat) (m : Memory) : Prop := ∀ p ∈ m, a < p.1

theorem Memory.wf_cons {a : Nat} {v : Word} {m : Memory} :
    Memory.wf ((a, v) :: m) = true ↔ v ≠ sentinel ∧ Memory.above a m ∧ Memory.wf m = true := by
  induction m generalizing a v with
  | nil => simp [Memory.wf, Memory.above]
  | cons q m ih =>
    obtain ⟨b, w⟩ := q
    rw [Memory.wf, Bool.and_eq_true, Bool.and_eq_true, ih]
    simp only [Memory.above, List.mem_cons, decide_eq_true_eq, bne_iff_ne, ne_eq]
    constructor
    · rintro ⟨⟨hab, hv⟩, hw, hm, hwf⟩
      refine ⟨hv, ?_, hw, hm, hwf⟩
      rintro p (rfl | hp)
      · exact hab
      · exact hab.trans (hm p hp)
    · rintro ⟨hv, hall, hw, hm, hwf⟩
      exact ⟨⟨hall (b, w) (Or.inl rfl), hv⟩, hw, hm, hwf⟩

theorem Memory.read_of_above {a k : Nat} {m : Memory} (h : Memory.above a m) (hk : k ≤ a) :
    Memory.read m k = sentinel := by
  induction m with
  | nil => rfl
  | cons q m ih =>
    obtain ⟨b, w⟩ := q
    have hb : a < b := h (b, w) (by simp)
    rw [Memory.read, if_neg (by omega)]
    exact ih fun p hp => h p (by simp [hp])

theorem Memory.above_write {a k : Nat} {v : Word} {m : Memory} (h : Memory.above a m) (hk : a < k) :
    Memory.above a (Memory.write m k v) := by
  induction m with
  | nil =>
    rw [Memory.write]
    split
    · exact h
    · simpa [Memory.above] using hk
  | cons q m ih =>
    obtain ⟨b, w⟩ := q
    have hb : a < b := h (b, w) (by simp)
    have hm : Memory.above a m := fun p hp => h p (by simp [hp])
    rw [Memory.write]
    split_ifs
    · exact h
    · rintro p hp
      rcases List.mem_cons.1 hp with rfl | hp
      · exact hk
      · exact h p hp
    · exact hm
    · rintro p hp
      rcases List.mem_cons.1 hp with rfl | hp
      · exact hk
      · exact hm p hp
    · rintro p hp
      rcases List.mem_cons.1 hp with rfl | hp
      · exact hb
      · exact ih hm p hp

/-- A write keeps the canonical form. -/
theorem Memory.wf_write {m : Memory} (h : Memory.wf m = true) (k : Nat) (v : Word) :
    Memory.wf (Memory.write m k v) = true := by
  induction m with
  | nil =>
    rw [Memory.write]
    split
    · rfl
    · next hv => simpa [Memory.wf] using hv
  | cons q m ih =>
    obtain ⟨b, w⟩ := q
    have hc := Memory.wf_cons.1 h
    rw [Memory.write]
    split_ifs with h1 hv h2 hv
    · exact h
    · refine Memory.wf_cons.2 ⟨hv, ?_, h⟩
      intro p hp
      rcases List.mem_cons.1 hp with rfl | hp
      · exact h1
      · exact h1.trans (hc.2.1 p hp)
    · exact hc.2.2
    · exact Memory.wf_cons.2 ⟨hv, h2 ▸ hc.2.1, hc.2.2⟩
    · exact Memory.wf_cons.2 ⟨hc.1, Memory.above_write hc.2.1 (by omega), ih hc.2.2⟩

/-- A read after a write to the same key gives the value written. -/
theorem Memory.read_write_same {m : Memory} (h : Memory.wf m = true) (k : Nat) (v : Word) :
    Memory.read (Memory.write m k v) k = v := by
  induction m with
  | nil =>
    rw [Memory.write]
    split
    · next hv => exact hv.symm
    · simp [Memory.read]
  | cons q m ih =>
    obtain ⟨b, w⟩ := q
    have hc := Memory.wf_cons.1 h
    rw [Memory.write]
    split_ifs with h1 hv h2 hv
    · rw [Memory.read, if_neg (by omega), hv]
      exact Memory.read_of_above hc.2.1 (by omega)
    · simp [Memory.read]
    · rw [hv]
      exact Memory.read_of_above hc.2.1 (by omega)
    · simp [Memory.read]
    · rw [Memory.read, if_neg (by omega)]
      exact ih hc.2.2

/-- A write leaves every other key as it was. -/
theorem Memory.read_write_ne {m : Memory} {k j : Nat} (hjk : j ≠ k) (v : Word) :
    Memory.read (Memory.write m k v) j = Memory.read m j := by
  induction m with
  | nil =>
    rw [Memory.write]
    split
    · rfl
    · simp [Memory.read, Ne.symm hjk]
  | cons q m ih =>
    obtain ⟨b, w⟩ := q
    rw [Memory.write]
    split_ifs with h1 hv h2 hv
    · rfl
    · rw [Memory.read, if_neg (by omega)]
    · rw [Memory.read, if_neg (by omega)]
    · rw [Memory.read, if_neg (by omega), Memory.read, if_neg (by omega)]
    · rw [Memory.read, Memory.read, ih]

/-- Keys of a memory after a write: the written one or one listed before. -/
theorem Memory.mem_write {m : Memory} {k : Nat} {v : Word} {p : Nat × Word}
    (hp : p ∈ Memory.write m k v) : p.1 = k ∨ p ∈ m := by
  induction m with
  | nil =>
    rw [Memory.write] at hp
    split at hp
    · simp at hp
    · simp only [List.mem_cons, List.not_mem_nil, or_false] at hp
      exact Or.inl (by rw [hp])
  | cons q m ih =>
    obtain ⟨b, w⟩ := q
    rw [Memory.write] at hp
    split_ifs at hp with h1 hv h2 hv
    · exact Or.inr hp
    · rcases List.mem_cons.1 hp with rfl | hp
      · exact Or.inl rfl
      · exact Or.inr hp
    · exact Or.inr (by simp [hp])
    · rcases List.mem_cons.1 hp with rfl | hp
      · exact Or.inl rfl
      · exact Or.inr (by simp [hp])
    · rcases List.mem_cons.1 hp with rfl | hp
      · exact Or.inr (by simp)
      · rcases ih hp with h | h
        · exact Or.inl h
        · exact Or.inr (by simp [h])

/-- The first `n` writes of a table. -/
def writeEntries (cfg : Config) (mem : Memory) (t : Nat) (T : List Int) (n : Nat) : Memory :=
  (List.range n).foldl (fun m i => Memory.write m (entryKey cfg t i) (tc32 (T.getD i (-1)))) mem

theorem writeTable_eq (cfg : Config) (mem : Memory) (t W : Nat) (T : List Int) :
    writeTable cfg mem t W T = writeEntries cfg mem t T (2 ^ W) := rfl

@[simp] theorem writeEntries_zero (cfg : Config) (mem : Memory) (t : Nat) (T : List Int) :
    writeEntries cfg mem t T 0 = mem := rfl

theorem writeEntries_succ (cfg : Config) (mem : Memory) (t : Nat) (T : List Int) (n : Nat) :
    writeEntries cfg mem t T (n + 1) =
      Memory.write (writeEntries cfg mem t T n) (entryKey cfg t n) (tc32 (T.getD n (-1))) := by
  simp [writeEntries, List.range_succ]

theorem wf_writeEntries {cfg : Config} {mem : Memory} (h : Memory.wf mem = true) (t : Nat) (T : List Int)
    (n : Nat) : Memory.wf (writeEntries cfg mem t T n) = true := by
  induction n with
  | zero => exact h
  | succ n ih => rw [writeEntries_succ]; exact Memory.wf_write ih _ _

theorem read_writeEntries_other {cfg : Config} {mem : Memory} {t : Nat} {T : List Int} {n k : Nat}
    (hk : ∀ i < n, k ≠ entryKey cfg t i) :
    Memory.read (writeEntries cfg mem t T n) k = Memory.read mem k := by
  induction n with
  | zero => rfl
  | succ n ih =>
    rw [writeEntries_succ, Memory.read_write_ne (hk n (by omega))]
    exact ih fun i hi => hk i (by omega)

theorem read_writeEntries {cfg : Config} {mem : Memory} (h : Memory.wf mem = true) {t : Nat} {T : List Int}
    {n i : Nat} (hi : i < n) :
    Memory.read (writeEntries cfg mem t T n) (entryKey cfg t i) = tc32 (T.getD i (-1)) := by
  induction n with
  | zero => omega
  | succ n ih =>
    rw [writeEntries_succ]
    by_cases hin : i = n
    · subst hin
      exact Memory.read_write_same (wf_writeEntries h _ _ _) _ _
    · rw [Memory.read_write_ne (by simp only [entryKey]; omega)]
      exact ih (by omega)

/-- Writing a table keeps the canonical form. -/
theorem wf_writeTable {cfg : Config} {mem : Memory} (h : Memory.wf mem = true) (t W : Nat) (T : List Int) :
    Memory.wf (writeTable cfg mem t W T) = true := wf_writeEntries h t T _

/-- After writing a table its entries read as the table's (R103). -/
theorem read_writeTable {cfg : Config} {mem : Memory} (h : Memory.wf mem = true) {t W : Nat} {T : List Int}
    {i : Nat} (hi : i < 2 ^ W) :
    Memory.read (writeTable cfg mem t W T) (entryKey cfg t i) = tc32 (T.getD i (-1)) :=
  read_writeEntries h hi

/-- Writing a table leaves every other key as it was. -/
theorem read_writeTable_other {cfg : Config} {mem : Memory} {t W : Nat} {T : List Int} {k : Nat}
    (hk : ∀ i < 2 ^ W, k ≠ entryKey cfg t i) :
    Memory.read (writeTable cfg mem t W T) k = Memory.read mem k :=
  read_writeEntries_other hk

/-- Keys listed after writing a table. -/
theorem mem_writeTable {cfg : Config} {mem : Memory} {t W : Nat} {T : List Int} {p : Nat × Word}
    (hp : p ∈ writeTable cfg mem t W T) : (∃ i < 2 ^ W, p.1 = entryKey cfg t i) ∨ p ∈ mem := by
  rw [writeTable_eq] at hp
  generalize 2 ^ W = n at hp ⊢
  induction n with
  | zero => exact Or.inr hp
  | succ n ih =>
    rw [writeEntries_succ] at hp
    rcases Memory.mem_write hp with h | h
    · exact Or.inl ⟨n, by omega, h⟩
    · rcases ih h with ⟨i, hi, h⟩ | h
      · exact Or.inl ⟨i, by omega, h⟩
      · exact Or.inr h

/-- Distinct entries of the address space have distinct keys (R50). -/
theorem entryKey_inj {cfg : Config} {t t' i i' : Nat} (hi : i < 2 ^ cfg.wmax) (hi' : i' < 2 ^ cfg.wmax)
    (h : entryKey cfg t i = entryKey cfg t' i') : t = t' ∧ i = i' := by
  have hp : 0 < 2 ^ cfg.wmax := Nat.pow_pos (by omega)
  simp only [entryKey] at h
  have ht : t = t' := by
    have h1 := congrArg (· / 2 ^ cfg.wmax) h
    simpa [Nat.add_comm (_ * _), Nat.add_mul_div_right _ _ hp, Nat.div_eq_of_lt hi, Nat.div_eq_of_lt hi'] using h1
  subst ht
  exact ⟨rfl, by omega⟩

theorem entryKey_lt {cfg : Config} {t i n : Nat} (ht : t < n) (hi : i < 2 ^ cfg.wmax) :
    entryKey cfg t i < n * 2 ^ cfg.wmax := by
  have : (t + 1) * 2 ^ cfg.wmax ≤ n * 2 ^ cfg.wmax := Nat.mul_le_mul_right _ ht
  simp only [entryKey]
  rw [Nat.add_mul, Nat.one_mul] at this
  omega

/-- The memory at power-on has the canonical form. -/
theorem wf_powerOn (cfg : Config) : Memory.wf (State.powerOn cfg).mem = true := rfl

/-- The memory at reset has the canonical form. -/
theorem wf_reset : Memory.wf State.reset.mem = true := rfl

end Sys2Proof.Machine
end

