-- ==== Sys2Proof/Laws/Ops.lean ====
section
/-! SUPPORT. What each shared check and operation can do, said once: if it answers a next state, then one of these cases holds. -/

namespace Sys2Proof.Machine

/-! ### Checks -/

theorem outsideWindow_open {s : State} (h : s.sub.active = true) (k : Result) :
    outsideWindow s k = .next (s.refusing .busy) := by simp [outsideWindow, h, raise_eq]

theorem outsideWindow_closed {s : State} (h : s.sub.active = false) (k : Result) :
    outsideWindow s k = k := by simp [outsideWindow, h]

theorem outsideWindow_next {s t : State} {k : Result} (h : outsideWindow s k = .next t) :
    (s.sub.active = true ∧ t = s.refusing .busy) ∨ (s.sub.active = false ∧ k = .next t) := by
  cases ha : s.sub.active
  · exact Or.inr ⟨rfl, by rwa [outsideWindow_closed ha] at h⟩
  · rw [outsideWindow_open ha] at h
    exact Or.inl ⟨rfl, by cases h; rfl⟩

theorem insideWindow_open {s : State} (h : s.sub.active = true) (k : Result) :
    insideWindow s k = k := by simp [insideWindow, h]

theorem insideWindow_closed {s : State} (h : s.sub.active = false) (k : Result) :
    insideWindow s k = .next (s.refusing .sequence) := by simp [insideWindow, h, raise_eq]

theorem insideWindow_next {s t : State} {k : Result} (h : insideWindow s k = .next t) :
    (s.sub.active = false ∧ t = s.refusing .sequence) ∨ (s.sub.active = true ∧ k = .next t) := by
  cases ha : s.sub.active
  · rw [insideWindow_closed ha] at h
    exact Or.inl ⟨rfl, by cases h; rfl⟩
  · exact Or.inr ⟨rfl, by rwa [insideWindow_open ha] at h⟩

theorem context?_eq_some {s : State} {d : Handle} {c : Context} :
    s.context? d = some c ↔ d.toNat < s.cfg.ndec ∧ s.ctxs[d.toNat]? = some c := by
  simp [State.context?]

theorem withDecoder_uses {s : State} {d : Handle} {c : Context} (h : s.uses d c) (k : Context → Result) :
    withDecoder s d k = k c := by
  rw [withDecoder, context?_eq_some.2 ⟨h.1, h.2.1⟩]
  simp [h.2.2]

theorem withDecoder_unused {s : State} {d : Handle} (h : s.unused d) (k : Context → Result) :
    withDecoder s d k = .next (s.refusing .badHandle) := by
  rcases h with h | ⟨c, hc, hu⟩
  · have : s.context? d = none := by simp [State.context?, Nat.not_lt.2 h]
    simp [withDecoder, this, raise_eq]
  · by_cases hd : d.toNat < s.cfg.ndec
    · rw [withDecoder, context?_eq_some.2 ⟨hd, hc⟩]
      simp [hu, raise_eq]
    · have : s.context? d = none := by simp [State.context?, hd]
      simp [withDecoder, this, raise_eq]

theorem withDecoder_next {s t : State} {d : Handle} {k : Context → Result}
    (h : withDecoder s d k = .next t) :
    t = s.refusing .badHandle ∨ ∃ c, s.uses d c ∧ k c = .next t := by
  unfold withDecoder at h
  split at h
  · next c hc =>
    split at h
    · next hu => exact Or.inr ⟨c, ⟨(context?_eq_some.1 hc).1, (context?_eq_some.1 hc).2, hu⟩, h⟩
    · exact Or.inl (by rw [raise_eq] at h; cases h; rfl)
  · exact Or.inl (by rw [raise_eq] at h; cases h; rfl)

theorem slotAt_of_getElem? {s : State} {t : Nat} {sl : Slot} (h : s.slots[t]? = some sl) :
    s.slotAt t = sl := by simp [State.slotAt, h]

theorem getElem?_of_slotAt_valid {s : State} {t : Nat} (h : (s.slotAt t).valid = true) :
    s.slots[t]? = some (s.slotAt t) := by
  cases hs : s.slots[t]? with
  | none => simp [State.slotAt, hs, Slot.free] at h
  | some sl => simp [State.slotAt, hs]

theorem withBuiltSlot_built {s : State} {t : Handle} {sl : Slot} (h : s.built t.toNat sl) (k : Slot → Result) :
    withBuiltSlot s t k = k sl := by
  simp [withBuiltSlot, slotAt_of_getElem? h.2.1, h.1, h.2.2]

theorem withBuiltSlot_absent {s : State} {t : Handle}
    (h : s.cfg.ntab ≤ t.toNat ∨ ∃ sl, s.slots[t.toNat]? = some sl ∧ sl.valid = false) (k : Slot → Result) :
    withBuiltSlot s t k = .next (s.refusing .badHandle) := by
  rcases h with h | ⟨sl, hsl, hv⟩
  · simp [withBuiltSlot, Nat.not_lt.2 h, raise_eq]
  · simp [withBuiltSlot, slotAt_of_getElem? hsl, hv, raise_eq]

theorem withBuiltSlot_next {s t : State} {n : Handle} {k : Slot → Result}
    (h : withBuiltSlot s n k = .next t) :
    t = s.refusing .badHandle ∨ ∃ sl, s.built n.toNat sl ∧ k sl = .next t := by
  unfold withBuiltSlot at h
  split at h
  · next hc =>
    simp only [Bool.and_eq_true, decide_eq_true_eq] at hc
    exact Or.inr ⟨_, ⟨hc.1, getElem?_of_slotAt_valid hc.2, hc.2⟩, h⟩
  · exact Or.inl (by rw [raise_eq] at h; cases h; rfl)

theorem withDefinition_some {s : State} {id : DefId} {D : Definition} (h : s.cfg.definition? id = some D)
    (k : Definition → Result) : withDefinition s id k = k D := by simp [withDefinition, h]

theorem withDefinition_next {s t : State} {id : DefId} {k : Definition → Result}
    (h : withDefinition s id k = .next t) : ∃ D, s.cfg.definition? id = some D ∧ k D = .next t := by
  unfold withDefinition at h
  split at h
  · next D hD => exact ⟨D, hD, h⟩
  · cases h

theorem memRead_eq_some {s : State} {t i : Nat} {v : Word} :
    s.memRead t i = some v ↔ t < s.cfg.ntab ∧ i < 2 ^ s.cfg.wmax ∧ s.entry t i = v := by
  simp [State.memRead, entryExists, and_assoc]

/-! ### Searching slots and contexts -/

theorem freeSlot?_eq_some {s : State} {t : Nat} : s.freeSlot? = some t ↔ s.leastFreeSlot t := by
  rw [State.freeSlot?, List.findIdx?_eq_some_iff_getElem, State.leastFreeSlot]
  constructor
  · rintro ⟨hlt, hv, hmin⟩
    refine ⟨⟨_, List.getElem?_eq_getElem hlt, by simpa using hv⟩, fun t' sl' ht' h' => ?_⟩
    obtain ⟨hl, rfl⟩ := List.getElem?_eq_some_iff.1 h'
    simpa using hmin t' ht'
  · rintro ⟨⟨sl, h, hv⟩, hmin⟩
    obtain ⟨hl, rfl⟩ := List.getElem?_eq_some_iff.1 h
    refine ⟨hl, by simpa using hv, fun j hj => ?_⟩
    simpa using hmin j _ hj (List.getElem?_eq_getElem (by omega))

theorem freeSlot?_eq_none {s : State} : s.freeSlot? = none ↔ ∀ sl ∈ s.slots, sl.valid = true := by
  simp [State.freeSlot?, List.findIdx?_eq_none_iff]

theorem freeContext?_eq_some {s : State} {d : Nat} : s.freeContext? = some d ↔ s.leastFreeContext d := by
  rw [State.freeContext?, List.findIdx?_eq_some_iff_getElem, State.leastFreeContext]
  constructor
  · rintro ⟨hlt, hv, hmin⟩
    refine ⟨⟨_, List.getElem?_eq_getElem hlt, by simpa using hv⟩, fun d' c' hd' h' => ?_⟩
    obtain ⟨hl, rfl⟩ := List.getElem?_eq_some_iff.1 h'
    simpa using hmin d' hd'
  · rintro ⟨⟨c, h, hv⟩, hmin⟩
    obtain ⟨hl, rfl⟩ := List.getElem?_eq_some_iff.1 h
    refine ⟨hl, by simpa using hv, fun j hj => ?_⟩
    simpa using hmin j _ hj (List.getElem?_eq_getElem (by omega))

theorem freeContext?_eq_none {s : State} : s.freeContext? = none ↔ ∀ c ∈ s.ctxs, c.inUse = true := by
  simp [State.freeContext?, List.findIdx?_eq_none_iff]

theorem builtSlot?_eq_some {s : State} {id : DefId} {t : Nat} :
    s.builtSlot? id = some t ↔ ∃ sl, s.holds id t sl := by
  rw [State.builtSlot?, List.findIdx?_eq_some_iff_getElem]
  constructor
  · rintro ⟨hlt, hv, hmin⟩
    simp only [Bool.and_eq_true, beq_iff_eq] at hv
    refine ⟨_, List.getElem?_eq_getElem hlt, hv.1, hv.2, fun t' sl' ht' h' hsl' => ?_⟩
    obtain ⟨hl, rfl⟩ := List.getElem?_eq_some_iff.1 h'
    exact hmin t' ht' (by simpa using hsl')
  · rintro ⟨sl, h, hv, hid, hmin⟩
    obtain ⟨hl, rfl⟩ := List.getElem?_eq_some_iff.1 h
    refine ⟨hl, by simp [hv, hid], fun j hj hc => ?_⟩
    exact hmin j _ hj (List.getElem?_eq_getElem (by omega)) (by simpa using hc)

theorem builtSlot?_eq_none {s : State} {id : DefId} : s.builtSlot? id = none ↔ s.lacks id := by
  simp [State.builtSlot?, List.findIdx?_eq_none_iff, State.lacks]

/-! ### Taking and releasing a table -/

/-- `addReference` succeeds with one more reference of its kind, the descriptor otherwise unchanged (R106). -/
theorem addReference_ok {kind : RefKind} {sl sl' : Slot} (h : addReference kind sl = .ok sl') :
    (kind = .ext ∧ sl.extRefs ≠ 0xFFFF ∧ sl' = { sl with extRefs := sl.extRefs + 1 })
    ∨ (kind = .dec ∧ sl' = { sl with decRefs := sl.decRefs + 1 }) := by
  cases kind with
  | ext =>
    simp only [addReference] at h
    split at h
    · cases h
    · next hr => exact Or.inl ⟨rfl, hr, by cases h; rfl⟩
  | dec => exact Or.inr ⟨rfl, by cases h; rfl⟩

/-- All that `acquireTable` does where it succeeds (R106): it shares the table a slot holds, or builds one in the least
free slot. -/
theorem acquireTable_ok {s s' : State} {kind : RefKind} {id : DefId} {t : Nat} {fresh : Bool}
    (h : acquireTable s kind id = .ok (s', t, fresh)) :
    ∃ D, s.cfg.definition? id = some D ∧
      ((fresh = false ∧ ∃ sl sl', s.holds id t sl ∧ addReference kind sl = .ok sl' ∧ s' = s.setSlot t sl')
      ∨ (fresh = true ∧ s.lacks id ∧ fieldsLegal s.cfg D = true ∧ s.leastFreeSlot t ∧
          ∃ T, build D = some T ∧
            s' = (s.setMem (writeTable s.cfg s.mem t D.W T)).setSlot t (freshSlot kind id))) := by
  unfold acquireTable at h
  split at h
  · cases h
  next D hD =>
  refine ⟨D, hD, ?_⟩
  split at h
  · next k hk =>
    obtain ⟨sl, hsl⟩ := builtSlot?_eq_some.1 hk
    rw [slotAt_of_getElem? hsl.1] at h
    split at h
    · cases h
    next sl' hr =>
    cases h
    exact Or.inl ⟨rfl, sl, sl', hsl, hr, rfl⟩
  · next hnone =>
    split at h
    · cases h
    next hlegal =>
    split at h
    · cases h
    next k hk =>
    split at h
    · cases h
    next T hT =>
    cases h
    exact Or.inr ⟨rfl, builtSlot?_eq_none.1 hnone, by simpa using hlegal, freeSlot?_eq_some.1 hk, T, hT, rfl⟩

/-- `acquireTable` sharing a table (R106). -/
theorem acquireTable_shared {s : State} {kind : RefKind} {id : DefId} {D : Definition} {t : Nat} {sl : Slot}
    (hD : s.cfg.definition? id = some D) (h : s.holds id t sl) :
    acquireTable s kind id =
      match addReference kind sl with
      | .error e => .error e
      | .ok sl' => .ok (s.setSlot t sl', t, false) := by
  rw [acquireTable, hD]
  simp only [builtSlot?_eq_some.2 ⟨sl, h⟩, slotAt_of_getElem? h.1]
  all_goals cases addReference kind sl <;> rfl

/-- `acquireTable` building a table (R106). -/
theorem acquireTable_fresh {s : State} {kind : RefKind} {id : DefId} {D : Definition} {t : Nat} {T : List Int}
    (hD : s.cfg.definition? id = some D) (h : s.lacks id) (hl : fieldsLegal s.cfg D = true)
    (ht : s.leastFreeSlot t) (hT : build D = some T) :
    acquireTable s kind id =
      .ok ((s.setMem (writeTable s.cfg s.mem t D.W T)).setSlot t (freshSlot kind id), t, true) := by
  rw [acquireTable, hD]
  simp [builtSlot?_eq_none.2 h, hl, freeSlot?_eq_some.2 ht, hT]

/-- `releaseIfUnused` keeps the descriptor, or clears `valid` where no reference is left (R109). -/
theorem releaseIfUnused_cases (sl : Slot) :
    (sl.extRefs = 0 ∧ sl.decRefs = 0 ∧ releaseIfUnused sl = { sl with valid := false })
    ∨ (¬ (sl.extRefs = 0 ∧ sl.decRefs = 0) ∧ releaseIfUnused sl = sl) := by
  unfold releaseIfUnused
  split
  · next h => exact Or.inl ⟨h.1, h.2, rfl⟩
  · next h => exact Or.inr ⟨h, rfl⟩

/-! ### The frame pipeline -/

/-- What `zeroCross` keeps of a context (R126). -/
theorem zeroCross_keeps (cfg : Config) (h : Handle) (c : ChannelId) (v : Int) (d : Context) :
    (zeroCross cfg h c v d).1.inUse = d.inUse ∧ (zeroCross cfg h c v d).1.defId = d.defId
    ∧ (zeroCross cfg h c v d).1.slot = d.slot ∧ (zeroCross cfg h c v d).1.rate = d.rate
    ∧ (zeroCross cfg h c v d).1.pitch = d.pitch ∧ (zeroCross cfg h c v d).1.forwards = d.forwards
    ∧ (zeroCross cfg h c v d).1.bitstream = d.bitstream ∧ (zeroCross cfg h c v d).1.timecode = d.timecode
    ∧ (zeroCross cfg h c v d).1.validCounter = d.validCounter
    ∧ (zeroCross cfg h c v d).1.timecodeTicker = d.timecodeTicker := by
  simp [zeroCross]

@[simp] theorem zeroCross_channel (cfg : Config) (h : Handle) (c : ChannelId) (v : Int) (d : Context) :
    (zeroCross cfg h c v d).1.channel c = channelAfter cfg d.signalLevel (d.channel c) v := by
  cases c <;> rfl

theorem zeroCross_channel_of_ne (cfg : Config) (h : Handle) {c c' : ChannelId} (hc : c' ≠ c) (v : Int)
    (d : Context) : (zeroCross cfg h c v d).1.channel c' = d.channel c' := by
  cases c <;> cases c' <;> first | rfl | exact absurd rfl hc

@[simp] theorem zeroCross_signalLevel (cfg : Config) (h : Handle) (c : ChannelId) (v : Int) (d : Context) :
    (zeroCross cfg h c v d).1.signalLevel =
      smoothSignal cfg d.signalLevel (deviation v (d.channel c)).natAbs := rfl

theorem zeroCross_event_isSome (cfg : Config) (h : Handle) (c : ChannelId) (v : Int) (d : Context) :
    (zeroCross cfg h c v d).2.isSome = confirms cfg d.signalLevel (d.channel c) v := by
  simp only [zeroCross]
  split <;> simp_all

theorem zeroCross_event {cfg : Config} {h : Handle} {c : ChannelId} {v : Int} {d : Context} {e : Event}
    (he : (zeroCross cfg h c v d).2 = some e) : e.decoder = h ∧ e.channel = c := by
  simp only [zeroCross] at he
  split at he
  · cases he; exact ⟨rfl, rfl⟩
  · cases he

/-- `direction` writes `seen_crossing`, `forwards` and `valid_counter` only (R143). -/
theorem direction_cases (D : Definition) (xp xs : Bool) (d : Context) :
    direction D xp xs d = d
    ∨ direction D xp xs d = { d with seenCrossing := true }
    ∨ ∃ f, direction D xp xs d = { d with seenCrossing := true, forwards := f, validCounter := 0 } := by
  simp only [direction]
  split
  · exact Or.inl rfl
  · split
    · exact Or.inr (Or.inr ⟨_, rfl⟩)
    · exact Or.inr (Or.inl rfl)

/-- `resolve` writes the window and the tracked counters (R166). -/
theorem resolve_eq_some {s : State} {D : Definition} {b : Bool} {d d' : Context}
    (h : resolve s D b d = some d') :
    ∃ w r, w = BitVec.ofNat 24 (shiftIn D d.forwards b d.bitstream.toNat)
      ∧ s.memRead d.slot.toNat w.toNat = some r
      ∧ d' = track s.cfg.missPolicy r { d with bitstream := w } := by
  simp only [resolve] at h
  split at h
  · cases h
  · next r hr => exact ⟨_, r, rfl, hr, by cases h; rfl⟩

/-- The context after stage 1, the direction update and the tick of a frame (R207). -/
def frameTicked (s : State) (D : Definition) (h : Handle) (s0 s1 : SampleBits) (d : Context) : Context :=
  let p := zeroCross s.cfg h .primary (primarySample D s0 s1) d
  let q := zeroCross s.cfg h .secondary (secondarySample D s0 s1) p.1
  tick s.cfg (direction D p.2.isSome q.2.isSome q.1)

/-- The events of a frame (R128, R207). -/
def frameEvents (s : State) (D : Definition) (h : Handle) (s0 s1 : SampleBits) (d : Context) : List Event :=
  let p := zeroCross s.cfg h .primary (primarySample D s0 s1) d
  let q := zeroCross s.cfg h .secondary (secondarySample D s0 s1) p.1
  p.2.toList ++ q.2.toList

/-- All that a frame does where it completes (R207): the ticked context, with one bit resolved or none. -/
theorem frame_ok {s : State} {h : Handle} {s0 s1 : SampleBits} {d d' : Context} {evs : List Event}
    (hf : frame s h s0 s1 d = .ok (d', evs)) :
    ∃ D, s.cfg.definition? d.defId = some D ∧ evs = frameEvents s D h s0 s1 d
      ∧ (d' = frameTicked s D h s0 s1 d
        ∨ ∃ b, resolve s D b (frameTicked s D h s0 s1 d) = some d') := by
  simp only [frame] at hf
  split at hf
  · cases hf
  next D hD =>
  refine ⟨D, hD, ?_⟩
  split at hf
  · split at hf
    · cases hf
    · next d'' hr => cases hf; exact ⟨rfl, Or.inr ⟨_, hr⟩⟩
  · cases hf; exact ⟨rfl, Or.inl rfl⟩

/-- What the ticked context keeps (R207). -/
theorem frameTicked_keeps (s : State) (D : Definition) (h : Handle) (s0 s1 : SampleBits) (d : Context) :
    (frameTicked s D h s0 s1 d).inUse = d.inUse ∧ (frameTicked s D h s0 s1 d).defId = d.defId
    ∧ (frameTicked s D h s0 s1 d).slot = d.slot ∧ (frameTicked s D h s0 s1 d).rate = d.rate
    ∧ (frameTicked s D h s0 s1 d).pitch = d.pitch ∧ (frameTicked s D h s0 s1 d).bitstream = d.bitstream
    ∧ (frameTicked s D h s0 s1 d).timecode = d.timecode := by
  simp only [frameTicked, tick]
  rcases direction_cases D
      (zeroCross s.cfg h .primary (primarySample D s0 s1) d).2.isSome
      (zeroCross s.cfg h .secondary (secondarySample D s0 s1)
        (zeroCross s.cfg h .primary (primarySample D s0 s1) d).1).2.isSome
      (zeroCross s.cfg h .secondary (secondarySample D s0 s1)
        (zeroCross s.cfg h .primary (primarySample D s0 s1) d).1).1 with hd | hd | ⟨f, hd⟩ <;>
    rw [hd] <;> simp [zeroCross]

/-- What `track` keeps (R162, R163). -/
theorem track_keeps (p : MissPolicy) (r : Word) (d : Context) :
    (track p r d).inUse = d.inUse ∧ (track p r d).defId = d.defId ∧ (track p r d).slot = d.slot
    ∧ (track p r d).rate = d.rate ∧ (track p r d).pitch = d.pitch ∧ (track p r d).bitstream = d.bitstream
    ∧ (track p r d).forwards = d.forwards ∧ (track p r d).seenCrossing = d.seenCrossing
    ∧ (track p r d).signalLevel = d.signalLevel ∧ (track p r d).primary = d.primary
    ∧ (track p r d).secondary = d.secondary := by
  unfold track; split <;> simp

/-- All that SAMPLE can do (R205). -/
theorem execSample_next {s t : State} {s0 s1 : SampleBits} (h : execSample s0 s1 s = .next t) :
    (s.sub.active = false ∧ t = s.refusing .sequence)
    ∨ (s.sub.active = true ∧ ∃ d d' evs, s.sub.handle.toNat < s.cfg.ndec ∧ s.ctxs[s.sub.handle.toNat]? = some d
        ∧ frame s s.sub.handle s0 s1 d = .ok (d', evs)
        ∧ endFrame ((s.setContext s.sub.handle.toNat d').emit evs) = .next t) := by
  rcases insideWindow_next h with h | ⟨ha, h⟩
  · exact Or.inl h
  refine Or.inr ⟨ha, ?_⟩
  split at h
  · cases h
  next d hd =>
  split at h
  · cases h
  next d' evs hf =>
  obtain ⟨h1, h2⟩ := context?_eq_some.1 hd
  exact ⟨d, d', evs, h1, h2, hf, h⟩

/-- The end of SAMPLE: the frame is counted; the last one closes the window and answers (R205). -/
theorem endFrame_cases (s : State) :
    (s.sub.remaining - 1 ≠ 0 ∧
      endFrame s = .next (s.setSub { s.sub with remaining := s.sub.remaining - 1, active := true }))
    ∨ (s.sub.remaining - 1 = 0 ∧
      endFrame s = .next ((s.setSub { s.sub with remaining := 0, active := false }).answering
        (s.sub.count.setWidth 32) 0)) := by
  by_cases h : s.sub.remaining - 1 = 0
  · refine Or.inr ⟨h, ?_⟩
    have h0 : s.sub.remaining - 1#24 = 0#24 := h
    simp [endFrame, countFrame, h0, answer_eq, zext32]
  · refine Or.inl ⟨h, ?_⟩
    have h0 : ¬ s.sub.remaining - 1#24 = 0#24 := h
    have h1 : (s.sub.remaining - 1#24 != 0#24) = true := bne_iff_ne.2 h0
    simp [endFrame, countFrame, h1]

end Sys2Proof.Machine
end

