-- ==== Sys2Proof/Laws/PerInstr.lean ====
section
/-! SUPPORT. Per command: the word `encode` gives it is of the row of opcode_table.json with the command's mnemonic, every
operand at every value (30_encoding R74). -/

namespace Sys2Proof.Laws

/-- The mnemonic of a command's row. -/
def EncodesToItsRow.mnemonic : Instr → String
  | .buildLookup _ => "BUILD_LOOKUP"
  | .freeLookup _ => "FREE_LOOKUP"
  | .init _ => "INIT"
  | .clear _ => "CLEAR"
  | .destroy _ => "DESTROY"
  | .submit _ _ _ => "SUBMIT"
  | .sample _ _ => "SAMPLE"
  | .setPitch _ _ => "SET_PITCH"
  | .getPitch _ => "GET_PITCH"
  | .getPosition _ => "GET_POSITION"
  | .getAlive _ => "GET_ALIVE"
  | .getSafe _ => "GET_SAFE"
  | .getResolution _ => "GET_RESOLUTION"
  | .readTable _ _ => "READ_TABLE"
  | .readReg _ _ => "READ_REG"

/-- The command's word is of its row. -/
def EncodesToItsRow.Statement (i : Instr) : Prop :=
  ∃ r ∈ opcodeTable, r.mnemonic = EncodesToItsRow.mnemonic i ∧ r.admits (encode i) = true

/-- A row admits an opcode with operand bits that the row's mask clears. -/
theorem EncodesToItsRow.admits {r : OpcodeRow} {op : Opcode} {w : CommandWord}
    (hop : place 56 (opcodeNumber op) = r.pattern) (hm : ∀ j < 8, r.mask.getLsbD (56 + j) = true)
    (hw : w &&& r.mask = 0) : r.admits (place 56 (opcodeNumber op) ||| w) = true := by
  rw [OpcodeRow.admits, or_and, place_and_keep _ _ _ hm, hw, hop]
  simp

theorem EncodesToItsRow.buildLookup (id : DefId) : EncodesToItsRow.Statement (.buildLookup id) := by
  refine ⟨opcodeTable[0], by decide, rfl, EncodesToItsRow.admits (op := .buildLookup) (by decide) (by decide) ?_⟩
  exact place_and_clear _ _ _ (by decide)

theorem EncodesToItsRow.freeLookup (t : Handle) : EncodesToItsRow.Statement (.freeLookup t) := by
  refine ⟨opcodeTable[1], by decide, rfl, EncodesToItsRow.admits (op := .freeLookup) (by decide) (by decide) ?_⟩
  exact place_and_clear _ _ _ (by decide)

theorem EncodesToItsRow.init (id : DefId) : EncodesToItsRow.Statement (.init id) := by
  refine ⟨opcodeTable[2], by decide, rfl, EncodesToItsRow.admits (op := .init) (by decide) (by decide) ?_⟩
  exact place_and_clear _ _ _ (by decide)

theorem EncodesToItsRow.clear (d : Handle) : EncodesToItsRow.Statement (.clear d) := by
  refine ⟨opcodeTable[3], by decide, rfl, EncodesToItsRow.admits (op := .clear) (by decide) (by decide) ?_⟩
  exact place_and_clear _ _ _ (by decide)

theorem EncodesToItsRow.destroy (d : Handle) : EncodesToItsRow.Statement (.destroy d) := by
  refine ⟨opcodeTable[4], by decide, rfl, EncodesToItsRow.admits (op := .destroy) (by decide) (by decide) ?_⟩
  exact place_and_clear _ _ _ (by decide)

theorem EncodesToItsRow.submit (d : Handle) (n : Field24) (r : Field24) : EncodesToItsRow.Statement (.submit d n r) := by
  refine ⟨opcodeTable[5], by decide, rfl, EncodesToItsRow.admits (op := .submit) (by decide) (by decide) ?_⟩
  exact by rw [operandBits, or_and, or_and, place_and_clear _ _ _ (by decide), place_and_clear _ _ _ (by decide),
      place_and_clear _ _ _ (by decide)]; rfl

theorem EncodesToItsRow.sample (a : SampleBits) (b : SampleBits) : EncodesToItsRow.Statement (.sample a b) := by
  refine ⟨opcodeTable[6], by decide, rfl, EncodesToItsRow.admits (op := .sample) (by decide) (by decide) ?_⟩
  exact by rw [operandBits, or_and, place_and_clear _ _ _ (by decide), place_and_clear _ _ _ (by decide)]; rfl

theorem EncodesToItsRow.setPitch (d : Handle) (p : Word) : EncodesToItsRow.Statement (.setPitch d p) := by
  refine ⟨opcodeTable[7], by decide, rfl, EncodesToItsRow.admits (op := .setPitch) (by decide) (by decide) ?_⟩
  exact by rw [operandBits, or_and, place_and_clear _ _ _ (by decide), place_and_clear _ _ _ (by decide)]; rfl

theorem EncodesToItsRow.getPitch (d : Handle) : EncodesToItsRow.Statement (.getPitch d) := by
  refine ⟨opcodeTable[8], by decide, rfl, EncodesToItsRow.admits (op := .getPitch) (by decide) (by decide) ?_⟩
  exact place_and_clear _ _ _ (by decide)

theorem EncodesToItsRow.getPosition (d : Handle) : EncodesToItsRow.Statement (.getPosition d) := by
  refine ⟨opcodeTable[9], by decide, rfl, EncodesToItsRow.admits (op := .getPosition) (by decide) (by decide) ?_⟩
  exact place_and_clear _ _ _ (by decide)

theorem EncodesToItsRow.getAlive (d : Handle) : EncodesToItsRow.Statement (.getAlive d) := by
  refine ⟨opcodeTable[10], by decide, rfl, EncodesToItsRow.admits (op := .getAlive) (by decide) (by decide) ?_⟩
  exact place_and_clear _ _ _ (by decide)

theorem EncodesToItsRow.getSafe (d : Handle) : EncodesToItsRow.Statement (.getSafe d) := by
  refine ⟨opcodeTable[11], by decide, rfl, EncodesToItsRow.admits (op := .getSafe) (by decide) (by decide) ?_⟩
  exact place_and_clear _ _ _ (by decide)

theorem EncodesToItsRow.getResolution (d : Handle) : EncodesToItsRow.Statement (.getResolution d) := by
  refine ⟨opcodeTable[12], by decide, rfl, EncodesToItsRow.admits (op := .getResolution) (by decide) (by decide) ?_⟩
  exact place_and_clear _ _ _ (by decide)

theorem EncodesToItsRow.readTable (t : Handle) (n : Field24) : EncodesToItsRow.Statement (.readTable t n) := by
  refine ⟨opcodeTable[13], by decide, rfl, EncodesToItsRow.admits (op := .readTable) (by decide) (by decide) ?_⟩
  exact by rw [operandBits, or_and, place_and_clear _ _ _ (by decide), place_and_clear _ _ _ (by decide)]; rfl

theorem EncodesToItsRow.readReg (d : Handle) (r : RegNumber) : EncodesToItsRow.Statement (.readReg d r) := by
  refine ⟨opcodeTable[14], by decide, rfl, EncodesToItsRow.admits (op := .readReg) (by decide) (by decide) ?_⟩
  exact by rw [operandBits, or_and, place_and_clear _ _ _ (by decide), place_and_clear _ _ _ (by decide)]; rfl

end Sys2Proof.Laws
end

