-- ==== Sys2Proof/Tests/Slice0.lean ====
section
/-! SUPPORT. The model's own tests: the checks of WellFormed refuse ill-formed terms, hand-written words decode, one step of each
command gives the values of 95_test_vectors.md, and for each statement with hypotheses a concrete state that meets them all. -/

namespace Sys2Proof.Tests

open Sys2Proof Sys2Proof.Machine

/-! ### Helpers -/

/-- The outcome is the next state `t`. -/
def goesTo (r : Result) (t : State) : Bool :=
  match r with
  | .next s => decide (s = t)
  | _ => false

theorem eq_next_of_goesTo {r : Result} {t : State} (h : goesTo r t = true) : r = .next t := by
  cases r <;> simp_all [goesTo]

/-- The outcome is some next state. -/
def completes (r : Result) : Bool :=
  match r with
  | .next _ => true
  | _ => false

theorem exists_next_of_completes {r : Result} (h : completes r = true) : ∃ t, r = .next t := by
  cases r <;> simp_all [completes]

/-- The last response of a next state. -/
def said (r : Result) : Option Response :=
  match r with
  | .next s => s.responses.getLast?
  | _ => none

/-- The next state, or an empty block where there is none. -/
def stateOf (r : Result) : State :=
  match r with
  | .next s => s
  | _ => State.powerOn (Config.default [])

/-- The parameters `TESTP` of 95_test_vectors.md. -/
def testP : Config := { Config.default resetRegistry with confirm := 2, timeout := 64, guard := 2 }

/-- `TESTP` with the illegal definitions of V-LFSR-5: seed 0 (id 1), taps 0 (id 2). -/
def testBad : Config :=
  { testP with
    defs := [(0, Definition.toy4), (1, { Definition.toy4 with seed := 0 }),
      (2, { Definition.toy4 with taps := 0 }), (3, { Definition.toy4 with taps := 3 }),
      (4, { Definition.toy4 with taps := 8 })] }

/-- Power-on followed by at most three commands. -/
def after (cfg : Config) (is : List Instr) : State := stateOf (execAll is (State.powerOn cfg))

def built : State := after testP [.buildLookup 0]
def bound : State := after testP [.init 0]
def opened : State := after testP [.init 0, .submit 0 2 16]
def lastFrame : State := after testP [.init 0, .submit 0 1 16]

/-- Context 0 of `bound`, changed. -/
def boundWith (f : Context → Context) : State := { bound with ctxs := bound.ctxs.modify 0 f }

/-- A block whose port holds one word. -/
def ported (w : CommandWord) : State := { State.powerOn testP with port := [w] }

def ok (a b : Word) : Option Response := some { status := .ok, data0 := a, data1 := b }
def err (e : Status) : Option Response := some { status := e, data0 := 0, data1 := 0 }

/-! ### WellFormed: each check refuses an ill-formed term -/

theorem test_default_is_legal : (Config.default resetRegistry).legal = true := by decide
theorem test_legal_wmax_low : ({ testP with wmax := 1 } : Config).legal = false := by decide
theorem test_legal_wmax_high : ({ testP with wmax := 25 } : Config).legal = false := by decide
theorem test_legal_ntab_low : ({ testP with ntab := 0 } : Config).legal = false := by decide
theorem test_legal_ntab_high : ({ testP with ntab := 256 } : Config).legal = false := by decide
theorem test_legal_ndec_low : ({ testP with ndec := 0 } : Config).legal = false := by decide
theorem test_legal_ndec_high : ({ testP with ndec := 256 } : Config).legal = false := by decide
theorem test_legal_confirm : ({ testP with confirm := 2 ^ 32 - 1 } : Config).legal = false := by decide
theorem test_legal_timeout : ({ testP with timeout := 2 ^ 32 - 1 } : Config).legal = false := by decide
theorem test_legal_zeroShift : ({ testP with zeroShift := 16 } : Config).legal = false := by decide
theorem test_legal_signalShift : ({ testP with signalShift := 16 } : Config).legal = false := by decide
theorem test_legal_gateFloor : ({ testP with gateFloor := 32768 } : Config).legal = false := by decide
theorem test_legal_gateNum : ({ testP with gateNum := 256 } : Config).legal = false := by decide
theorem test_legal_gateShift : ({ testP with gateShift := 16 } : Config).legal = false := by decide
theorem test_legal_guard : ({ testP with guard := 2 ^ 32 } : Config).legal = false := by decide
theorem test_legal_bndDen : ({ testP with bndNum := 0, bndDen := 0 } : Config).legal = false := by decide
theorem test_legal_bndNum : ({ testP with bndNum := 2, bndDen := 4 } : Config).legal = false := by decide

/-- V-ENC-3 to V-ENC-6, V-ENC-8 to V-ENC-10, V-ENC-12, and a set `H` in formats D and X. -/
theorem test_ill_formed_words :
    ([0x0100000000000100, 0x1000000000000000, 0x0000000000000000, 0x0B00000000000001,
      0x0800000100000000, 0x0E00000001000000, 0x0F00000000000100, 0x0300000000000107,
      0x0101000000000000, 0x0701000000000000] : List CommandWord).all
        (fun w => !CommandWord.wellFormed w) = true := by decide

/-- V-LFSR-5: each check of R104 refuses a changed TOY4; taps 0 fails the Build check only. -/
theorem test_illegal_definitions :
    fieldsLegal testP Definition.toy4 = true
    ∧ ([{ Definition.toy4 with seed := 0 }, { Definition.toy4 with length := 16 },
        { Definition.toy4 with taps := 0x10 }, { Definition.toy4 with safe := 15 },
        { Definition.toy4 with W := 1 }, { Definition.toy4 with flags := 8 },
        { Definition.toy4 with W := 24 }, { Definition.toy4 with seed := 16 },
        { Definition.toy4 with length := 0 }, { Definition.toy4 with R := 0 },
        { Definition.toy4 with R := 2 ^ 32 }] : List Definition).all
          (fun D => !fieldsLegal testP D) = true
    ∧ build { Definition.toy4 with taps := 0 } = none := by decide

/-! ### Decoding: a word of every command, written out from R70, R71, R74 (and R80) -/

theorem test_decode_buildLookup : decode 0x01000000000000A5 = .ok (.buildLookup 0xA5) := by decide
theorem test_decode_freeLookup : decode 0x0201000000000000 = .ok (.freeLookup 1) := by decide
theorem test_decode_init : decode 0x0300000000000007 = .ok (.init 7) := by decide
theorem test_decode_clear : decode 0x0401000000000000 = .ok (.clear 1) := by decide
theorem test_decode_destroy : decode 0x05FE000000000000 = .ok (.destroy 254) := by decide
theorem test_decode_submit : decode 0x060300010200BB80 = .ok (.submit 3 0x000102 48000) := by decide
theorem test_decode_sample : decode 0x070000002710D8F0 = .ok (.sample 10000 (-10000)) := by decide
theorem test_decode_setPitch : decode 0x0802000000018000 = .ok (.setPitch 2 0x18000) := by decide
theorem test_decode_getPitch : decode 0x0905000000000000 = .ok (.getPitch 5) := by decide
theorem test_decode_getPosition : decode 0x0A00000000000000 = .ok (.getPosition 0) := by decide
theorem test_decode_getAlive : decode 0x0B01000000000000 = .ok (.getAlive 1) := by decide
theorem test_decode_getSafe : decode 0x0C02000000000000 = .ok (.getSafe 2) := by decide
theorem test_decode_getResolution : decode 0x0DFF000000000000 = .ok (.getResolution 255) := by decide
theorem test_decode_readTable : decode 0x0E0100000000000D = .ok (.readTable 1 13) := by decide
theorem test_decode_readReg : decode 0x0F00000000000009 = .ok (.readReg 0 9) := by decide
theorem test_decodeTableWord : decodeTableWord 64 0x060300010200BB80 = some (.submit 3 0x000102 48000)
    ∧ decodeTableWord 64 0x1000000000000000 = none := by decide

/-! ### One step per command (values of 95_test_vectors.md) -/

/-- V-ENC-1: the first word after reset is fetched and run. -/
theorem test_first_step_after_reset :
    said (step (State.reset.withFetchWord 64 0x0100000000000000)) = ok 0 1 := by decide

/-- V-ENC-4. -/
theorem test_illegal_word_step : said (step (State.reset.withFetchWord 64 0x1000000000000000)) = err .illegal := by
  decide

/-- V-ENC-7. -/
theorem test_no_context_after_reset :
    said (step (State.reset.withFetchWord 64 0x0B01000000000000)) = err .badHandle := by decide

/-- R200: with no word there is no step. -/
theorem test_no_word_no_step : completes (step State.reset) = false := by decide

/-- V-TAB-3: the second reference. -/
theorem test_buildLookup_shares : said (exec (.buildLookup 0) built) = ok 0 0 := by decide
/-- P5: an id that is not in the registry. -/
theorem test_buildLookup_unknown : said (exec (.buildLookup 5) built) = err .unknownDef := by decide
/-- V-TAB-3: the last reference. -/
theorem test_freeLookup_releases : said (exec (.freeLookup 0) built) = ok 0 0 := by decide
/-- V-ENC-2. -/
theorem test_freeLookup_not_valid : said (exec (.freeLookup 1) built) = err .badHandle := by decide
/-- V-SES-7. -/
theorem test_init_second : said (exec (.init 0) bound) = ok 1 0 := by decide
/-- V-SES-2: the rate is kept, the pitch is not. -/
theorem test_clear_keeps_rate :
    ((stateOf (exec (.clear 0) (boundWith fun c => { c with rate := 0x14, pitch := 0x18000 }))).ctxs[0]?.map
      fun c => (c.rate, c.pitch)) = some (0x14, 0) := by decide
/-- V-SES-8. -/
theorem test_destroy_last : said (exec (.destroy 0) bound) = ok 0 0 := by decide
/-- V-SES-3: an empty submission. -/
theorem test_submit_empty : said (exec (.submit 0 0 16) bound) = ok 0 0 := by decide
/-- V-SES-4. -/
theorem test_submit_rate_zero : said (exec (.submit 0 2 0) bound) = err .invalidParam := by decide
/-- V-SES-6: the last frame answers the count. -/
theorem test_sample_last : said (exec (.sample 10000 (-10000)) lastFrame) = ok 1 0 := by decide
/-- V-ENC-11. -/
theorem test_sample_without_window : said (exec (.sample 0 0) bound) = err .sequence := by decide
/-- V-QRY-3. -/
theorem test_setPitch_bit31 : said (exec (.setPitch 0 0x80000000) bound) = err .invalidParam := by decide
/-- V-QRY-2: pitch -1.5. -/
theorem test_getPitch_reverse :
    said (exec (.getPitch 0) (boundWith fun c =>
      { c with pitch := 0x18000, seenCrossing := true, forwards := false })) = ok 0xFFFE8000 0 := by decide
/-- V-LIV-3 and V-LIV-4: at the timeout and one past it. -/
theorem test_getPosition_timeout :
    said (exec (.getPosition 0) (boundWith fun c => { c with validCounter := 3, timecodeTicker := 64 }))
      = ok 0xFFFFFFFF 64
    ∧ said (exec (.getPosition 0) (boundWith fun c => { c with validCounter := 3, timecodeTicker := 65 }))
      = ok 0xFFFFFFFF 0 := by decide
/-- V-LIV-1 and V-LIV-2: at the confirmation threshold and one past it. -/
theorem test_getAlive_confirm :
    said (exec (.getAlive 0) (boundWith fun c => { c with validCounter := 2 })) = ok 0 0
    ∧ said (exec (.getAlive 0) (boundWith fun c => { c with validCounter := 3 })) = ok 1 0 := by decide
/-- V-QRY-3. -/
theorem test_getSafe : said (exec (.getSafe 0) bound) = ok 12 0 := by decide
/-- V-QRY-3. -/
theorem test_getResolution : said (exec (.getResolution 0) bound) = ok 1 0 := by decide
/-- V-TAB-4: the last entry and one past it. -/
theorem test_readTable_bound :
    said (exec (.readTable 0 15) built) = ok 0xC 0
    ∧ said (exec (.readTable 0 16) built) = err .invalidParam := by decide
/-- V-SES-1. -/
theorem test_readReg_after_init :
    said (exec (.readReg 0 0x15) bound) = ok 2 0
    ∧ said (exec (.readReg 0 0x08) bound) = ok 0xFFFFFFFF 0 := by decide

/-! ### The stages (values of 95_test_vectors.md) -/

/-- V-TAB-1. -/
theorem test_toy4_table :
    build Definition.toy4 = some [-1, 0, 3, 14, 2, 8, 6, 13, 1, 4, 9, 7, 5, 10, 11, 12] := by decide

/-- V-LFSR-1 and V-LFSR-2. -/
theorem test_lfsr_step :
    fwd Definition.toy4 0x1 = 0x8 ∧ rev Definition.toy4 0x1 = 0x3 ∧ rev Definition.toy4 0x8 = 0x1 := by decide

/-- V-ZC-1, sample 1: the event. -/
theorem test_crossing_event :
    (zeroCross (Config.default []) 0 .primary 10000
      { resetAdaptive Context.unused with
        signalLevel := 10240000
        primary := { Channel.initial with zero := 10240000, crossingTicker := 1, peak := 655360000 } }).2
      = some { decoder := 0, channel := .primary, polarity := true, interval := 2 } := by decide

/-- V-ZC-1, sample 1: the estimates. -/
theorem test_crossing_estimates :
    let d := (zeroCross (Config.default []) 0 .primary 10000
      { resetAdaptive Context.unused with
        signalLevel := 10240000
        primary := { Channel.initial with zero := 10240000, crossingTicker := 1, peak := 655360000 } }).1
    (d.signalLevel, d.primary.zero, d.primary.peak, d.primary.swapped) = (20160000, 20320000, 645120000, true) := by
  decide

/-- V-DIR-5: both channels crossed, the primary's test decides. -/
theorem test_direction_both :
    let d := direction Definition.toy4 true true
      { resetAdaptive Context.unused with
        validCounter := 5
        primary := { Channel.initial with positive := true }
        secondary := { Channel.initial with positive := true } }
    (d.forwards, d.validCounter, d.seenCrossing) = (false, 0, true) := by decide

/-- V-CLS-2 and V-CLS-6 at and beside the boundary `T = 4`. -/
theorem test_classify_boundary :
    let c (f : Bool) (T : Word) := classify (Config.default []) Definition.toy4
      { Context.unused with
        forwards := f
        pitch := 0x10000
        rate := 16
        primary := { Channel.initial with crossingTicker := T } }
    (c true 4, c true 5, c false 3, c false 4) = (false, true, true, false) := by decide

/-- V-RES-2: a reverse hit. -/
theorem test_resolve_reverse :
    ((resolve bound Definition.toy4 true
      { resetAdaptive Context.unused with
        forwards := false, bitstream := 2, validCounter := 5, timecodeTicker := 9, timecode := 7 }).map
      fun d => (d.bitstream, d.timecode, d.validCounter, d.timecodeTicker)) = some (5, 8, 6, 0) := by decide

/-- V-LIV-6 and V-LIV-8. -/
theorem test_tick :
    (tick testP { Context.unused with timecodeTicker := 64, validCounter := 3 }).validCounter = 0
    ∧ (tick testP { Context.unused with timecodeTicker := 0xFFFFFFFF }).timecodeTicker = 0xFFFFFFFF := by decide

/-! ### Reset -/

theorem test_reset_memory_form : Memory.wf State.reset.mem = true := by decide
theorem test_reset_has_the_invariant : State.reset.wellFormed = true := by decide

/-! ### For each statement with hypotheses, states and operands that meet them all; for each clause, a boundary -/

/-- Context 0 of `bound`, as INIT leaves it. -/
def ctx0 : Context := boundContext 0 0

theorem bound_uses : bound.uses 0 ctx0 := by unfold State.uses; decide
theorem boundWith_uses (f : Context → Context) (h : (f ctx0).inUse = true) : (boundWith f).uses 0 (f ctx0) := by
  have hc : bound.ctxs = [ctx0, Context.unused] := by decide
  have hn : 0 < bound.cfg.ndec := by decide
  refine ⟨hn, ?_, h⟩
  simp [boundWith, hc]

/-- The slot of `built`, of `bound`, and of a block with both references. -/
def extSlot : Slot := { valid := true, defId := 0, extRefs := 1, decRefs := 0 }
def decSlot : Slot := { valid := true, defId := 0, extRefs := 0, decRefs := 1 }

/-- `built` with another descriptor in slot 0. -/
def builtWith (sl : Slot) : State := { built with slots := [sl, Slot.free] }

theorem witness_ExampleWordsDecode : (ported 0x0100000000000100).port = 0x0100000000000100 :: [] := rfl

theorem witness_EncodeOfDecodeIsTheWord : decode 0x06FFFFFFFFFFFFFF = .ok (.submit 255 0xFFFFFF 0xFFFFFF) := by decide

theorem witness_DecoderAcceptsExactlyTheOpcodeTable :
    CommandWord.wellFormed 0x0F00000000000009 = true ∧ CommandWord.wellFormed 0x0F00000000000100 = false := by decide

theorem witness_StepRunsTheDecodedCommand :
    (ported 0x0B01000000000000).port = 0x0B01000000000000 :: []
      ∧ decode 0x0B01000000000000 = .ok (.getAlive 1) := by decide

/-- Outside and inside a window. -/
theorem witness_IllegalWordRespondsIllegal :
    (ported 0x1000000000000000).port = 0x1000000000000000 :: []
      ∧ 0x10 ≤ ((0x1000000000000000 : CommandWord).extractLsb' 56 8).toNat
      ∧ (0x00FFFFFFFFFFFFFF : CommandWord).extractLsb' 56 8 = 0
      ∧ ({ opened with port := [0x0701000000000000] } : State).sub.active = true
      ∧ CommandWord.wellFormed 0x0701000000000000 = false := by decide

theorem witness_WindowCheckComesFirst :
    (opened.sub.active = true ∧ (Instr.getAlive 0).opcode ≠ .sample)
      ∧ (bound.sub.active = false ∧ (Instr.sample 0 0).opcode = .sample) := by decide

/-- The first number that is no context, the last, and a context not in use; inside and outside a window. -/
theorem witness_UnusedDecoderRaisesBadHandle :
    (bound.sub.active = false ∧ bound.unused 2 ∧ bound.unused 255 ∧ bound.unused 1)
      ∧ opened.sub.active = true ∧ opened.unused 1 :=
  ⟨⟨by decide, Or.inl (by decide), Or.inl (by decide), Or.inr ⟨Context.unused, by decide, by decide⟩⟩,
    by decide, Or.inr ⟨Context.unused, by decide, by decide⟩⟩

theorem witness_ErrorsChangeNothingElse :
    (∃ t, exec (.getAlive 1) bound = .next t) ∧ (∃ t, exec (.getAlive 0) bound = .next t)
      ∧ (∃ t, exec (.submit 0 1 1) bound = .next t) ∧ ∃ t, exec (.sample 0 0) opened = .next t :=
  ⟨exists_next_of_completes (by decide), exists_next_of_completes (by decide),
    exists_next_of_completes (by decide), exists_next_of_completes (by decide)⟩

theorem witness_StepKeepsParametersAndAppendsToTraces : ∃ t, step (ported 0x0300000000000000) = .next t :=
  exists_next_of_completes (by decide)

/-- Alive at the last tick and the first count; not alive one tick on, and one count before. -/
theorem witness_GetPositionAnswers :
    (boundWith fun c => { c with validCounter := 3, timecodeTicker := 64 }).uses 0
        { ctx0 with validCounter := 3, timecodeTicker := 64 }
      ∧ (boundWith fun c => { c with validCounter := 3, timecodeTicker := 65 }).uses 0
        { ctx0 with validCounter := 3, timecodeTicker := 65 }
      ∧ (boundWith fun c => { c with validCounter := 2 }).uses 0 { ctx0 with validCounter := 2 }
      ∧ bound.sub.active = false ∧ testP.confirm = 2 ∧ testP.timeout = 64 :=
  ⟨boundWith_uses _ rfl, boundWith_uses _ rfl, boundWith_uses _ rfl, by decide, rfl, rfl⟩

/-- The same states as for GET_POSITION. -/
theorem witness_GetAliveAnswers :
    (boundWith fun c => { c with validCounter := 3, timecodeTicker := 64 }).uses 0
        { ctx0 with validCounter := 3, timecodeTicker := 64 }
      ∧ (boundWith fun c => { c with validCounter := 3, timecodeTicker := 65 }).uses 0
        { ctx0 with validCounter := 3, timecodeTicker := 65 }
      ∧ (boundWith fun c => { c with validCounter := 2 }).uses 0 { ctx0 with validCounter := 2 }
      ∧ bound.sub.active = false :=
  ⟨boundWith_uses _ rfl, boundWith_uses _ rfl, boundWith_uses _ rfl, by decide⟩

/-- The largest pitch, in reverse; and no crossing seen. -/
theorem witness_GetPitchAnswersSignedPitch :
    (boundWith fun c => { c with pitch := 0x7FFFFFFF, seenCrossing := true, forwards := false }).uses 0
        { ctx0 with pitch := 0x7FFFFFFF, seenCrossing := true, forwards := false }
      ∧ (0x7FFFFFFF : Word).toNat < 2 ^ 31 ∧ bound.uses 0 ctx0 ∧ ctx0.seenCrossing = false
      ∧ bound.sub.active = false :=
  ⟨boundWith_uses _ rfl, by decide, bound_uses, rfl, by decide⟩

theorem witness_GetSafeAndResolutionAnswer :
    bound.sub.active = false ∧ bound.uses 0 ctx0 ∧ bound.cfg.definition? ctx0.defId = some Definition.toy4
      ∧ fieldsLegal bound.cfg Definition.toy4 = true ∧ bound.cfg.legal = true :=
  ⟨by decide, bound_uses, by decide, by decide, by decide⟩

theorem witness_ReadRegAnswersTheNamedField : bound.sub.active = false ∧ bound.uses 0 ctx0 :=
  ⟨by decide, bound_uses⟩

/-- Both ends of each reserved range; their neighbours 0x0B, 0x10, 0x15, 0x18 and 0x1D are in none. -/
theorem witness_ReadRegOfReservedNumberIsInvalid :
    bound.sub.active = false ∧ bound.uses 0 ctx0
      ∧ (∀ r ∈ ([0x0C, 0x0F, 0x16, 0x17, 0x1E, 0xFF] : List RegNumber),
          0x0C ≤ r.toNat ∧ r.toNat ≤ 0x0F ∨ 0x16 ≤ r.toNat ∧ r.toNat ≤ 0x17 ∨ 0x1E ≤ r.toNat)
      ∧ (∀ r ∈ ([0x0B, 0x10, 0x15, 0x18, 0x1D] : List RegNumber),
          ¬ (0x0C ≤ r.toNat ∧ r.toNat ≤ 0x0F ∨ 0x16 ≤ r.toNat ∧ r.toNat ≤ 0x17 ∨ 0x1E ≤ r.toNat)) :=
  ⟨by decide, bound_uses, by decide, by decide⟩

/-- The last entry of the table and the first index past it; a slot that does not exist and one that is not valid. -/
theorem witness_ReadTableAnswersTheEntry :
    built.sub.active = false ∧ built.built 0 extSlot ∧ built.cfg.definition? extSlot.defId = some Definition.toy4
      ∧ Definition.toy4.W ≤ built.cfg.wmax ∧ (15 : Field24).toNat < 2 ^ Definition.toy4.W
      ∧ 2 ^ Definition.toy4.W ≤ (16 : Field24).toNat
      ∧ built.cfg.ntab ≤ (2 : Handle).toNat ∧ built.slots[1]? = some Slot.free ∧ Slot.free.valid = false :=
  ⟨by decide, by unfold State.built; decide, by decide, by decide, by decide, by decide, by decide, by decide,
    by decide⟩

theorem witness_QueriesChangeOnlyTheResponseTrace :
    (Instr.readTable 0 15).opcode ∈ ([.getPitch, .getPosition, .getAlive, .getSafe, .getResolution, .readTable,
        .readReg] : List Opcode)
      ∧ ∃ t, exec (.readTable 0 15) built = .next t :=
  ⟨by decide, exists_next_of_completes (by decide)⟩

/-- The largest magnitude and the first value with bit 31 set. -/
theorem witness_SetPitchWritesThePitch :
    bound.sub.active = false ∧ bound.uses 0 ctx0 ∧ (0x7FFFFFFF : Word).toNat < 2 ^ 31
      ∧ 2 ^ 31 ≤ (0x80000000 : Word).toNat :=
  ⟨by decide, bound_uses, by decide, by decide⟩

theorem witness_ClearResetsTheAdaptiveState : bound.sub.active = false ∧ bound.uses 0 ctx0 :=
  ⟨by decide, bound_uses⟩

/-- The last reference of all, a second decoder reference, and a BUILD_LOOKUP reference left. -/
theorem witness_DestroyDropsTheReference :
    (bound.sub.active = false ∧ bound.uses 0 ctx0 ∧ ctx0.slot.toNat < bound.cfg.ntab
        ∧ bound.slots[ctx0.slot.toNat]? = some decSlot ∧ decSlot.valid = true
        ∧ decSlot.extRefs = 0 ∧ decSlot.decRefs = 1)
      ∧ (let s := after testP [.init 0, .init 0]
         s.sub.active = false ∧ s.uses 0 ctx0 ∧ ctx0.slot.toNat < s.cfg.ntab
          ∧ s.slots[ctx0.slot.toNat]? = some { decSlot with decRefs := 2 })
      ∧ (let s := after testP [.init 0, .buildLookup 0]
         s.sub.active = false ∧ s.uses 0 ctx0 ∧ ctx0.slot.toNat < s.cfg.ntab
          ∧ s.slots[ctx0.slot.toNat]? = some { decSlot with extRefs := 1 }) := by
  unfold State.uses; decide

/-- Rate 0; no frames; the most frames. -/
theorem witness_SubmitSetsTheRateAndOpensTheWindow :
    bound.sub.active = false ∧ bound.uses 0 ctx0 ∧ (1 : Field24) ≠ 0 ∧ (0xFFFFFF : Field24) ≠ 0 :=
  ⟨by decide, bound_uses, by decide, by decide⟩

/-- No external reference; two; one beside a decoder's; the last of all; no such slot; a slot not valid. -/
theorem witness_FreeLookupDropsOneReference :
    (bound.sub.active = false ∧ bound.built 0 decSlot ∧ decSlot.extRefs = 0)
      ∧ (built.sub.active = false ∧ built.built 0 extSlot ∧ extSlot.extRefs = 1 ∧ extSlot.decRefs = 0)
      ∧ ((builtWith { extSlot with extRefs := 2 }).sub.active = false
          ∧ (builtWith { extSlot with extRefs := 2 }).built 0 { extSlot with extRefs := 2 })
      ∧ ((builtWith { extSlot with decRefs := 1 }).built 0 { extSlot with decRefs := 1 })
      ∧ built.cfg.ntab ≤ (2 : Handle).toNat ∧ built.slots[1]? = some Slot.free := by
  unfold State.built; decide

theorem built_holds : built.holds 0 0 extSlot :=
  ⟨by decide, by decide, by decide, fun t' _ h => absurd h (Nat.not_lt_zero t')⟩

/-- One reference below the limit can be taken; at the limit none can. -/
theorem witness_BuildLookupSharesABuiltTable :
    (built.sub.active = false ∧ built.cfg.definition? 0 = some Definition.toy4 ∧ built.holds 0 0 extSlot
        ∧ extSlot.extRefs ≠ 0xFFFF)
      ∧ (builtWith { extSlot with extRefs := 0xFFFE }).holds 0 0 { extSlot with extRefs := 0xFFFE }
      ∧ (builtWith { extSlot with extRefs := 0xFFFF }).holds 0 0 { extSlot with extRefs := 0xFFFF } :=
  ⟨⟨by decide, by decide, built_holds, by decide⟩,
    ⟨rfl, rfl, rfl, fun t' _ h => absurd h (Nat.not_lt_zero t')⟩,
    ⟨rfl, rfl, rfl, fun t' _ h => absurd h (Nat.not_lt_zero t')⟩⟩

/-- Power-on with TOY4 in the registry: no slot holds it, slot 0 and context 0 are free. -/
def empty : State := State.powerOn testP

theorem empty_lacks (id : DefId) : empty.lacks id := by
  intro sl hsl hv
  have : sl = Slot.free := by
    simpa [empty, State.powerOn, testP, Config.default] using hsl
  subst this
  exact absurd hv (by decide)

theorem empty_leastFreeSlot : empty.leastFreeSlot 0 :=
  ⟨⟨Slot.free, rfl, rfl⟩, fun t' _ h => absurd h (Nat.not_lt_zero t')⟩

theorem empty_leastFreeContext : empty.leastFreeContext 0 :=
  ⟨⟨Context.unused, rfl, rfl⟩, fun t' _ h => absurd h (Nat.not_lt_zero t')⟩

/-- The table of V-TAB-1. -/
def toyTable : List Int := [-1, 0, 3, 14, 2, 8, 6, 13, 1, 4, 9, 7, 5, 10, 11, 12]

theorem witness_BuildLookupBuildsInTheLeastFreeSlot :
    empty.sub.active = false ∧ Memory.wf empty.mem = true ∧ empty.cfg.definition? 0 = some Definition.toy4
      ∧ empty.lacks 0 ∧ fieldsLegal empty.cfg Definition.toy4 = true
      ∧ build Definition.toy4 = some toyTable ∧ empty.leastFreeSlot 0 :=
  ⟨by decide, by decide, by decide, empty_lacks 0, by decide, by decide, empty_leastFreeSlot⟩

theorem witness_InitSharesABuiltTable :
    built.sub.active = false ∧ built.cfg.definition? 0 = some Definition.toy4 ∧ built.holds 0 0 extSlot
      ∧ built.leastFreeContext 0 :=
  ⟨by decide, by decide, built_holds, ⟨Context.unused, by decide, rfl⟩, fun t' _ h => absurd h (Nat.not_lt_zero t')⟩

theorem witness_InitBuildsInTheLeastFreeSlot :
    empty.sub.active = false ∧ Memory.wf empty.mem = true ∧ empty.cfg.definition? 0 = some Definition.toy4
      ∧ empty.lacks 0 ∧ fieldsLegal empty.cfg Definition.toy4 = true
      ∧ build Definition.toy4 = some toyTable ∧ empty.leastFreeSlot 0 ∧ empty.leastFreeContext 0 :=
  ⟨by decide, by decide, by decide, empty_lacks 0, by decide, by decide, empty_leastFreeSlot, empty_leastFreeContext⟩

/-- Power-on with illegal definitions in the registry. -/
def emptyBad : State := State.powerOn testBad

/-- Every slot taken by the other definitions that build (V-LFSR-4: taps 3 and 8). -/
def fullSlots : State := after testBad [.buildLookup 3, .buildLookup 4]

/-- Every context taken. -/
def fullContexts : State := after testBad [.init 0, .init 0]

/-- An absent id; every context taken; a field out of range; every slot taken; a build that fails. -/
theorem witness_BuildAndInitRaiseInOrder :
    (emptyBad.sub.active = false ∧ emptyBad.cfg.definition? 9 = none)
      ∧ (fullContexts.cfg.definition? 0 = some Definition.toy4 ∧ ∀ c ∈ fullContexts.ctxs, c.inUse = true)
      ∧ (emptyBad.cfg.definition? 1 = some { Definition.toy4 with seed := 0 } ∧ emptyBad.lacks 1
          ∧ fieldsLegal emptyBad.cfg { Definition.toy4 with seed := 0 } = false ∧ emptyBad.leastFreeContext 0)
      ∧ (fullSlots.cfg.definition? 0 = some Definition.toy4 ∧ fullSlots.lacks 0
          ∧ fieldsLegal fullSlots.cfg Definition.toy4 = true ∧ (∀ sl ∈ fullSlots.slots, sl.valid = true)
          ∧ fullSlots.leastFreeContext 0)
      ∧ (emptyBad.cfg.definition? 2 = some { Definition.toy4 with taps := 0 } ∧ emptyBad.lacks 2
          ∧ fieldsLegal emptyBad.cfg { Definition.toy4 with taps := 0 } = true
          ∧ build { Definition.toy4 with taps := 0 } = none ∧ emptyBad.leastFreeSlot 0) := by
  have hl : ∀ id, emptyBad.lacks id := fun id => empty_lacks id
  refine ⟨by decide, ⟨by decide, by decide⟩, ⟨by decide, hl 1, by decide, empty_leastFreeContext⟩,
    ⟨by decide, ?_, by decide, by decide, ?_⟩, ⟨by decide, hl 2, by decide, by decide, empty_leastFreeSlot⟩⟩
  · unfold State.lacks; decide
  · exact ⟨⟨Context.unused, by decide, rfl⟩, fun t' _ h => absurd h (Nat.not_lt_zero t')⟩

theorem witness_BuiltTableReadsBack :
    Memory.wf empty.mem = true ∧ empty.slots.length = empty.cfg.ntab ∧ empty.sub.active = false
      ∧ empty.cfg.definition? 0 = some Definition.toy4 ∧ empty.lacks 0
      ∧ fieldsLegal empty.cfg Definition.toy4 = true ∧ build Definition.toy4 = some toyTable
      ∧ empty.leastFreeSlot (0 : Handle).toNat ∧ (∃ t, exec (.buildLookup 0) empty = .next t)
      ∧ (15 : Field24).toNat < 2 ^ Definition.toy4.W :=
  ⟨by decide, by decide, by decide, by decide, empty_lacks 0, by decide, by decide, empty_leastFreeSlot,
    exists_next_of_completes (by decide), by decide⟩

/-- A build in slot 1 beside the valid slot 0. -/
theorem witness_ValidTablesAreReadOnly :
    let s := after testBad [.buildLookup 0]
    Memory.wf s.mem = true ∧ s.slots[0]? = some extSlot ∧ extSlot.valid = true
      ∧ ∃ t, exec (.buildLookup 3) s = .next t :=
  ⟨by decide, by decide, by decide, exists_next_of_completes (by decide)⟩

/-- The narrowest width and the widest state. -/
theorem witness_LfsrStepIsABijection :
    (1 ≤ Definition.toy4.W ∧ 15 < 2 ^ Definition.toy4.W)
      ∧ 1 ≤ ({ Definition.toy4 with W := 1 } : Definition).W ∧ 1 < 2 ^ ({ Definition.toy4 with W := 1 } : Definition).W := by
  decide

theorem witness_LfsrNeverReachesZero : fieldsLegal testP Definition.toy4 = true := by decide

/-- A build that succeeds and one that fails (V-LFSR-5: taps 0 repeats at step 4). -/
theorem witness_BuildFailsExactlyOnARepeat :
    (fieldsLegal testP Definition.toy4 = true ∧ (build Definition.toy4).isSome = true)
      ∧ (fieldsLegal testP { Definition.toy4 with taps := 0 } = true
          ∧ lfsrState { Definition.toy4 with taps := 0 } 0 = lfsrState { Definition.toy4 with taps := 0 } 4) := by
  decide

theorem witness_BuiltTableHoldsEachPositionOnce :
    fieldsLegal testP Definition.toy4 = true ∧ build Definition.toy4 = some toyTable := by decide

/-- The first and the last cycle a full window can end at. -/
theorem witness_ForwardReadResolvesItsCycle :
    fieldsLegal testP Definition.toy4 = true ∧ build Definition.toy4 = some toyTable
      ∧ Definition.toy4.W ≤ 3 + 1 ∧ 14 < Definition.toy4.length ∧ 15 < 2 ^ Definition.toy4.W := by decide

/-- The last and the first cycle a full reverse window can end at. -/
theorem witness_ReverseReadResolvesTheCycleAhead :
    fieldsLegal testP Definition.toy4 = true ∧ build Definition.toy4 = some toyTable
      ∧ 11 + Definition.toy4.W ≤ Definition.toy4.length ∧ 0 + Definition.toy4.W ≤ Definition.toy4.length
      ∧ 15 < 2 ^ Definition.toy4.W := by decide

/-- V-ZC-1 before sample 1. -/
def risingContext : Context :=
  { resetAdaptive Context.unused with
    signalLevel := 10240000
    primary := { Channel.initial with zero := 10240000, crossingTicker := 1, peak := 655360000 } }

theorem witness_CrossingIsConfirmedExactlyWhen :
    (zeroCross testP 0 .primary 10000 risingContext).2
      = some { decoder := 0, channel := .primary, polarity := true, interval := 2 } := by decide

/-- Each row of R130, at a boundary of the guard (4: cleared at ticker 3, held at 2) and of the gate. -/
theorem witness_CrossingStateMachine :
    let cfg := Config.default []
    (crossingState risingContext.primary = .armedNegative
        ∧ (0 : Int) < 10000 * 2 ^ 16 - risingContext.primary.zero.toInt
        ∧ max (cfg.gateFloor * 2 ^ 16) (risingContext.signalLevel.toNat * cfg.gateNum / 2 ^ cfg.gateShift)
            < risingContext.primary.peak.toNat)
      ∧ (crossingState { risingContext.primary with positive := true } = .armedPositive
        ∧ (-10000 : Int) * 2 ^ 16 - risingContext.primary.zero.toInt < 0)
      ∧ (crossingState { Channel.initial with swapped := true, crossingTicker := 2 } = .idle
        ∧ cfg.guard ≤ min ((2 : Word).toNat + 1) (2 ^ 32 - 1) + 1)
      ∧ ¬ cfg.guard ≤ min ((1 : Word).toNat + 1) (2 ^ 32 - 1) + 1
      ∧ (crossingState { Channel.initial with peak := 8388608 } = .armedNegative
        ∧ ¬ cfg.gateFloor * 2 ^ 16 < (8388608 : Word).toNat)
      ∧ (crossingState { Channel.initial with positive := true, peak := 8388608 } = .armedPositive) := by decide

/-- The extremes of the sample and of the ranges of R26 and R33. -/
theorem witness_EstimatesMoveTowardTheSample :
    (-32768 : Int) ≤ -32768 ∧ (32767 : Int) ≤ 32767
      ∧ channelWf { Channel.initial with zero := 0x7FFF0000, peak := 0xFFFF0000 } = true
      ∧ channelWf { Channel.initial with zero := 0x80000000 } = true
      ∧ (0xFFFF0000 : Word).toNat ≤ 2 ^ 32 - 2 ^ 16 := by decide

/-- A sample that confirms and one that does not, in a context in range. -/
theorem witness_ChannelAfterASample :
    channelWf risingContext.primary = true ∧ risingContext.signalLevel.toNat ≤ 2 ^ 32 - 2 ^ 16
      ∧ (zeroCross testP 0 .primary 10000 risingContext).2.isSome = true
      ∧ (zeroCross testP 0 .primary (-10000) risingContext).2 = none := by decide

/-- `GUARD = 2` (V-ZC-4c): a crossing on the first frame, the next one two frames on. -/
theorem witness_CrossingsAreAtLeastGuardApart :
    testP.guard ≤ 2 ^ 32 - 1 ∧ crossesAfter testP .primary [] (10000, 0) risingContext = true
      ∧ crossesAfter testP .primary ([] ++ (10000, 0) :: [(-10000, 0)]) (-10000, 0) risingContext = true
      ∧ 2 ≤ testP.guard ∧ ([(-10000, 0)] : List (Int × Int)).length + 1 ≤ testP.guard
      ∧ ([] : List (Int × Int)).length + 1 < testP.guard := by decide

/-- `floor(128 / 2) = 64`, both signs. -/
theorem witness_NoiseBelowTheFloorNeverCrosses :
    testP.gateFloor ≤ 32767 ∧ (resetAdaptive Context.unused).channel .primary = Channel.initial
      ∧ (∀ u ∈ ([(64, 32767), (-64, -32768)] : List (Int × Int)),
          (sampleOf .primary u).natAbs ≤ testP.gateFloor / 2)
      ∧ (sampleOf .primary (64, 0)).natAbs ≤ testP.gateFloor / 2 := by decide

/-- A channel whose zero-level is below silence crosses once. -/
theorem witness_SilenceCrossesAtMostOnce :
    0 < 1 ∧ crossesAfter testP .primary (List.replicate 0 (0, 0)) (0, 0)
      { resetAdaptive Context.unused with
        primary := { Channel.initial with zero := 0xE0000000, peak := 0x20000000 } } = true := by decide

/-- No crossing; either channel's; both values of flag 0. -/
theorem witness_DirectionFollowsThePolarities :
    ((false, false) : Bool × Bool) = (false, false) ∧ Definition.toy4.flags % 2 = 0
      ∧ ({ Definition.toy4 with flags := 7 } : Definition).flags % 2 = 1 := by decide

/-- Both directions. -/
theorem witness_ClassifierComparesWithTheBoundary :
    1 ≤ Definition.toy4.R ∧ 1 ≤ testP.bndDen ∧ ctx0.forwards = true
      ∧ ({ ctx0 with forwards := false } : Context).forwards = false := by decide

theorem witness_ShiftKeepsTheWindow :
    (1 ≤ Definition.toy4.W ∧ 15 < 2 ^ Definition.toy4.W)
      ∧ 1 ≤ ({ Definition.toy4 with W := 1 } : Definition).W ∧ 1 < 2 ^ ({ Definition.toy4 with W := 1 } : Definition).W := by
  decide

/-- V-RES-1 (a hit) and V-RES-3 (a miss). -/
theorem witness_ResolveTracksHitsAndMisses :
    1 ≤ Definition.toy4.W ∧ Definition.toy4.W ≤ bound.cfg.wmax ∧ bound.cfg.wmax ≤ 24
      ∧ ctx0.slot.toNat < bound.cfg.ntab ∧ ctx0.bitstream.toNat < 2 ^ Definition.toy4.W
      ∧ bound.entry 0 2 = 3 ∧ bound.entry 0 0 = 0xFFFFFFFF := by decide

/-- A context that is LOST before a frame, and one that becomes LOST in it. -/
theorem witness_LivenessOverOneFrame :
    bound.cfg.timeout ≤ 2 ^ 32 - 2
      ∧ (frame bound 0 0 0 { ctx0 with timecodeTicker := 65 }).isOk = true
      ∧ liveness bound.cfg { ctx0 with timecodeTicker := 65 } = .lost
      ∧ (frame bound 0 0 0 { ctx0 with timecodeTicker := 64, validCounter := 3 }).isOk = true
      ∧ liveness bound.cfg { ctx0 with timecodeTicker := 64, validCounter := 3 } = .alive := by decide

theorem witness_FrameKeepsTheBinding :
    (frame bound 0 10000 (-10000) ctx0).isOk = true := by decide

/-- A context one sample before a secondary crossing with the primary positive: a bit is read, and it hits. -/
def bitContext : Context :=
  { ctx0 with
    rate := 16
    primary := { Channel.initial with positive := true, crossingTicker := 1, peak := 655360000 }
    secondary := { Channel.initial with crossingTicker := 9, peak := 655360000 } }

/-- A frame that reads a bit and one that reads none. -/
theorem witness_FrameRunsItsStagesInOrder :
    bound.cfg.definition? bitContext.defId = some Definition.toy4
      ∧ (zeroCross testP 0 .secondary 10000 (zeroCross testP 0 .primary 10000 bitContext).1).2.isSome = true
      ∧ (resolve bound Definition.toy4 false bitContext).isSome = true
      ∧ (zeroCross testP 0 .secondary 0 (zeroCross testP 0 .primary 0 ctx0).1).2 = none := by decide

/-- A frame that is not the last, and the last. -/
theorem witness_SampleRunsOneFrame :
    (opened.wellFormed = true ∧ opened.sub.active = true ∧ opened.sub.remaining ≠ 1)
      ∧ (lastFrame.wellFormed = true ∧ lastFrame.sub.active = true ∧ lastFrame.sub.remaining = 1) := by decide

/-- Two frames, so that `k` is 0 (the SUBMIT alone) or 1; and the shortest submission. -/
theorem witness_SubmissionAnswersOnceAtItsLastFrame :
    bound.wellFormed = true ∧ bound.sub.active = false ∧ bound.uses 0 ctx0 ∧ (16 : Field24) ≠ 0
      ∧ ((2 : Field24) ≠ 0 ∧ 0 < (2 : Field24).toNat ∧ 1 < (2 : Field24).toNat
        ∧ ([(10000, -10000), (0, 0)] : List (SampleBits × SampleBits)).length = (2 : Field24).toNat)
      ∧ (1 : Field24) ≠ 0 ∧ ([(10000, -10000)] : List (SampleBits × SampleBits)).length = (1 : Field24).toNat :=
  ⟨by decide, by decide, bound_uses, by decide, by decide, by decide, by decide⟩

/-- Before any hit, and alive at the last position of the sequence and the last tick. -/
theorem witness_SurfacedPositionIsInTheSequence :
    (bound.wellFormed = true ∧ bound.sub.active = false ∧ bound.uses 0 ctx0
        ∧ bound.cfg.definition? ctx0.defId = some Definition.toy4)
      ∧ (boundWith fun c => { c with timecode := 14, validCounter := 3, timecodeTicker := 64 }).wellFormed = true
      ∧ (boundWith fun c => { c with timecode := 14, validCounter := 3, timecodeTicker := 64 }).uses 0
          { ctx0 with timecode := 14, validCounter := 3, timecodeTicker := 64 } :=
  ⟨⟨by decide, by decide, bound_uses, by decide⟩, by decide, boundWith_uses _ rfl⟩

/-- A build, and a frame. -/
theorem witness_EveryStepKeepsWellFormed :
    ((ported 0x0300000000000000).wellFormed = true ∧ ∃ t, step (ported 0x0300000000000000) = .next t)
      ∧ (({ opened with port := [0x070000002710D8F0] } : State).wellFormed = true
          ∧ ∃ t, step { opened with port := [0x070000002710D8F0] } = .next t) :=
  ⟨⟨by decide, exists_next_of_completes (by decide)⟩, by decide, exists_next_of_completes (by decide)⟩

/-- The least and the largest legal parameters. -/
theorem witness_PowerOnIsWellFormed :
    ({ wmax := 2, ntab := 1, ndec := 1, defs := [], confirm := 0, timeout := 0, missPolicy := .decrement,
       zeroShift := 0, signalShift := 0, gateFloor := 0, gateNum := 0, gateShift := 0, guard := 0, bndNum := 0,
       bndDen := 1 } : Config).legal = true
      ∧ ({ testP with wmax := 24, ntab := 255, ndec := 255, confirm := 2 ^ 32 - 2, timeout := 2 ^ 32 - 2,
                      zeroShift := 15, signalShift := 15, gateFloor := 32767, gateNum := 255, gateShift := 15,
                      guard := 2 ^ 32 - 1, bndNum := 49, bndDen := 99 } : Config).legal = true := by decide

theorem witness_WellFormedStepsComplete :
    (ported 0x0300000000000000).wellFormed = true ∧ (ported 0x0300000000000000).port ≠ [] := by decide

theorem witness_EveryStepKeepsMemoryForm :
    Memory.wf (ported 0x0300000000000000).mem = true ∧ ∃ t, step (ported 0x0300000000000000) = .next t :=
  ⟨by decide, exists_next_of_completes (by decide)⟩

/-- A command that names the context, and one that does not. -/
theorem witness_OtherContextsAreUntouched :
    (∃ t, exec (.clear 0) bound = .next t) ∧ (0 : Handle).toNat < bound.ctxs.length
      ∧ (1 : Handle).toNat < bound.ctxs.length :=
  ⟨exists_next_of_completes (by decide), by decide, by decide⟩

end Sys2Proof.Tests
end

/-! ### What a step and a command can do, said once -/

namespace Sys2Proof.Machine

/-- All that a step does where it answers a next state (R200, R76): it takes one word, which is refused or run. -/
theorem step_next {s t : State} (h : step s = .next t) :
    ∃ w rest, s.port = w :: rest ∧
      (t = ({ s with port := rest } : State).refusing .illegal
        ∨ ∃ i, decode w = .ok i ∧ exec i { s with port := rest } = .next t) := by
  unfold step fetch at h
  cases hp : s.port with
  | nil => simp [hp] at h
  | cons w rest =>
    refine ⟨w, rest, rfl, ?_⟩
    simp only [hp] at h
    cases hd : decode w with
    | error e =>
      simp only [hd, raise_eq] at h
      cases h
      exact Or.inl rfl
    | ok i =>
      simp only [hd] at h
      exact Or.inr ⟨i, rfl, h⟩

/-- The descriptor after FREE_LOOKUP (R107). -/
def Slot.dropExt (sl : Slot) : Slot := releaseIfUnused { sl with extRefs := sl.extRefs - 1 }

/-- The descriptor after DESTROY (R203). -/
def Slot.dropDec (sl : Slot) : Slot := releaseIfUnused { sl with decRefs := sl.decRefs - 1 }

/-- Where a command can lead: one constructor for each way in which a command changes the state, with the facts its checks
have established by then and the whole next state. -/
inductive Effect (s : State) : Instr → State → Prop
  /-- a check failed (R221) -/
  | refuse (i : Instr) (e : Status) : Effect s i (s.refusing e)
  /-- a query (R181, R185 to R189, R108) -/
  | query (i : Instr) (a b : Word) : Effect s i (s.answering a b)
  /-- R105 -/
  | buildLookup {id : DefId} {s' : State} {k : Nat} {fresh : Bool} (closed : s.sub.active = false)
      (acquired : acquireTable s .ext id = .ok (s', k, fresh)) (a b : Word) :
      Effect s (.buildLookup id) (s'.answering a b)
  /-- R107 -/
  | freeLookup {k : Handle} {sl : Slot} (closed : s.sub.active = false) (built : s.built k.toNat sl)
      (referenced : sl.extRefs ≠ 0) (a b : Word) :
      Effect s (.freeLookup k)
        ((s.setSlot k.toNat sl.dropExt).answering a b)
  /-- R201 -/
  | init {id : DefId} {d : Nat} {s' : State} {k : Nat} {fresh : Bool} (closed : s.sub.active = false)
      (free : s.leastFreeContext d) (acquired : acquireTable s .dec id = .ok (s', k, fresh)) (a b : Word) :
      Effect s (.init id) ((s'.setContext d (boundContext id k)).answering a b)
  /-- R202 -/
  | clear {d : Handle} {c : Context} (closed : s.sub.active = false) (uses : s.uses d c) (a b : Word) :
      Effect s (.clear d) ((s.setContext d.toNat (resetAdaptive c)).answering a b)
  /-- R203 -/
  | destroy {d : Handle} {c : Context} (closed : s.sub.active = false) (uses : s.uses d c) (a b : Word) :
      Effect s (.destroy d)
        (((s.setContext d.toNat { c with inUse := false }).setSlot c.slot.toNat
          (s.slotAt c.slot.toNat).dropDec).answering a b)
  /-- R204, an empty submission -/
  | submitNone {d : Handle} {c : Context} {rate : Field24} (closed : s.sub.active = false) (uses : s.uses d c)
      (a b : Word) :
      Effect s (.submit d 0 rate) ((s.setContext d.toNat { c with rate := rate }).answering a b)
  /-- R204, a submission that opens the window -/
  | submit {d : Handle} {c : Context} {count rate : Field24} (closed : s.sub.active = false) (uses : s.uses d c)
      (hrate : rate ≠ 0) (hcount : count ≠ 0) :
      Effect s (.submit d count rate)
        ((s.setContext d.toNat { c with rate := rate }).setSub
          { active := true, handle := d, count := count, remaining := count })
  /-- R205, a frame that leaves others to come -/
  | sample {s0 s1 : SampleBits} {c c' : Context} {evs : List Event} (opened : s.sub.active = true)
      (context : s.context? s.sub.handle = some c) (framed : frame s s.sub.handle s0 s1 c = .ok (c', evs))
      (more : s.sub.remaining - 1 ≠ 0) :
      Effect s (.sample s0 s1)
        (((s.setContext s.sub.handle.toNat c').emit evs).setSub
          { s.sub with remaining := s.sub.remaining - 1, active := true })
  /-- R205, the last frame of the window -/
  | sampleLast {s0 s1 : SampleBits} {c c' : Context} {evs : List Event} (opened : s.sub.active = true)
      (context : s.context? s.sub.handle = some c) (framed : frame s s.sub.handle s0 s1 c = .ok (c', evs))
      (last : s.sub.remaining - 1 = 0) (a b : Word) :
      Effect s (.sample s0 s1)
        ((((s.setContext s.sub.handle.toNat c').emit evs).setSub
          { s.sub with remaining := 0, active := false }).answering a b)
  /-- R184 -/
  | setPitch {d : Handle} {c : Context} {pitch : Word} (closed : s.sub.active = false) (uses : s.uses d c)
      (sign : pitch.getLsbD 31 = false) (a b : Word) :
      Effect s (.setPitch d pitch) ((s.setContext d.toNat { c with pitch := pitch }).answering a b)

namespace Effect

variable {s t : State} {i : Instr}

/-- A command that raises where `raise` answers its next state. -/
theorem of_raise {e : Status} (h : raise s e = .next t) : Effect s i t := by
  rw [raise_eq] at h
  cases h
  exact .refuse i e

theorem of_query_answer {a b : Word} (h : answer s a b = .next t) : Effect s i t := by
  rw [answer_eq] at h
  cases h
  exact .query i a b

/-- The window check of every command but SAMPLE (R200, R206). -/
theorem of_outsideWindow {k : Result} (h : outsideWindow s k = .next t)
    (hk : s.sub.active = false → k = .next t → Effect s i t) : Effect s i t := by
  rcases outsideWindow_next h with ⟨-, rfl⟩ | ⟨closed, h⟩
  · exact .refuse i .busy
  · exact hk closed h

/-- The checks of a command with a decoder handle (R183, R200). -/
theorem of_decoder {d : Handle} {k : Context → Result} (h : outsideWindow s (withDecoder s d k) = .next t)
    (hk : ∀ c, s.sub.active = false → s.uses d c → k c = .next t → Effect s i t) : Effect s i t := by
  refine of_outsideWindow h fun closed h => ?_
  rcases withDecoder_next h with rfl | ⟨c, uses, h⟩
  · exact .refuse i .badHandle
  · exact hk c closed uses h

/-- The checks of a command with a slot handle (R107, R108, R200). -/
theorem of_builtSlot {n : Handle} {k : Slot → Result} (h : outsideWindow s (withBuiltSlot s n k) = .next t)
    (hk : ∀ sl, s.sub.active = false → s.built n.toNat sl → k sl = .next t → Effect s i t) : Effect s i t := by
  refine of_outsideWindow h fun closed h => ?_
  rcases withBuiltSlot_next h with rfl | ⟨sl, built, h⟩
  · exact .refuse i .badHandle
  · exact hk sl closed built h

end Effect

theorem execBuildLookup_effect {s t : State} {id : DefId} (h : execBuildLookup id s = .next t) :
    Effect s (.buildLookup id) t := by
  refine .of_outsideWindow h fun closed h => ?_
  split at h
  · exact .of_raise h
  · next acquired => cases h; exact .buildLookup closed acquired _ _

theorem execFreeLookup_effect {s t : State} {n : Handle} (h : execFreeLookup n s = .next t) :
    Effect s (.freeLookup n) t := by
  refine .of_builtSlot h fun sl closed built h => ?_
  split at h
  · exact .of_raise h
  · next referenced => cases h; exact .freeLookup closed built referenced _ _

theorem execInit_effect {s t : State} {id : DefId} (h : execInit id s = .next t) : Effect s (.init id) t := by
  refine .of_outsideWindow h fun closed h => ?_
  split at h
  · exact .of_raise h
  split at h
  · exact .of_raise h
  next d hd =>
  split at h
  · exact .of_raise h
  · next acquired => cases h; exact .init closed (freeContext?_eq_some.1 hd) acquired _ _

theorem execClear_effect {s t : State} {d : Handle} (h : execClear d s = .next t) : Effect s (.clear d) t :=
  .of_decoder h fun c closed uses h => by cases h; exact .clear closed uses _ _

theorem execDestroy_effect {s t : State} {d : Handle} (h : execDestroy d s = .next t) :
    Effect s (.destroy d) t := by
  refine .of_decoder h fun c closed uses h => ?_
  split at h
  · cases h
  · cases h; exact .destroy closed uses _ _

theorem execSubmit_effect {s t : State} {d : Handle} {count rate : Field24}
    (h : execSubmit d count rate s = .next t) : Effect s (.submit d count rate) t := by
  refine .of_decoder h fun c closed uses h => ?_
  split at h
  · exact .of_raise h
  next hrate =>
  split at h
  · next hcount => cases h; subst hcount; exact .submitNone closed uses _ _
  · next hcount => cases h; exact .submit closed uses hrate hcount

theorem execSample_effect {s t : State} {s0 s1 : SampleBits} (h : execSample s0 s1 s = .next t) :
    Effect s (.sample s0 s1) t := by
  rcases execSample_next h with ⟨-, rfl⟩ | ⟨opened, c, c', evs, hlt, hc, framed, h⟩
  · exact .refuse _ .sequence
  have context := context?_eq_some.2 ⟨hlt, hc⟩
  rcases endFrame_cases ((s.setContext s.sub.handle.toNat c').emit evs) with ⟨more, he⟩ | ⟨last, he⟩
  · rw [he] at h; cases h; exact .sample opened context framed more
  · rw [he] at h; cases h; exact .sampleLast opened context framed last _ _

theorem execSetPitch_effect {s t : State} {d : Handle} {pitch : Word} (h : execSetPitch d pitch s = .next t) :
    Effect s (.setPitch d pitch) t := by
  refine .of_decoder h fun c closed uses h => ?_
  split at h
  · exact .of_raise h
  · next sign => cases h; exact .setPitch closed uses (by simpa using sign) _ _

theorem execReadTable_effect {s t : State} {n : Handle} {index : Field24}
    (h : execReadTable n index s = .next t) : Effect s (.readTable n index) t := by
  refine .of_builtSlot h fun sl _ _ h => ?_
  obtain ⟨D, -, h⟩ := withDefinition_next h
  split at h
  · exact .of_raise h
  split at h
  · cases h
  · exact .of_query_answer h

theorem execReadReg_effect {s t : State} {d : Handle} {reg : RegNumber} (h : execReadReg d reg s = .next t) :
    Effect s (.readReg d reg) t := by
  refine .of_decoder h fun c _ _ h => ?_
  split at h
  · exact .of_raise h
  · exact .of_query_answer h

theorem execGetPosition_effect {s t : State} {d : Handle} (h : execGetPosition d s = .next t) :
    Effect s (.getPosition d) t := by
  refine .of_decoder h fun c _ _ h => ?_
  split at h <;> exact .of_query_answer h

/-- The inversion of `exec`: a command that answers a next state has one of the effects. -/
theorem exec_effect {i : Instr} {s t : State} (h : exec i s = .next t) : Effect s i t := by
  cases i with
  | buildLookup id => exact execBuildLookup_effect h
  | freeLookup n => exact execFreeLookup_effect h
  | init id => exact execInit_effect h
  | clear d => exact execClear_effect h
  | destroy d => exact execDestroy_effect h
  | submit d count rate => exact execSubmit_effect h
  | sample s0 s1 => exact execSample_effect h
  | setPitch d pitch => exact execSetPitch_effect h
  | getPitch d => exact .of_decoder h fun _ _ _ h => .of_query_answer h
  | getPosition d => exact execGetPosition_effect h
  | getAlive d => exact .of_decoder h fun _ _ _ h => .of_query_answer h
  | getSafe d =>
    refine .of_decoder h fun _ _ _ h => ?_
    obtain ⟨D, -, h⟩ := withDefinition_next h
    exact .of_query_answer h
  | getResolution d =>
    refine .of_decoder h fun _ _ _ h => ?_
    obtain ⟨D, -, h⟩ := withDefinition_next h
    exact .of_query_answer h
  | readTable n index => exact execReadTable_effect h
  | readReg d reg => exact execReadReg_effect h

/-- `acquireTable` writes slots and table memory only (R106). -/
theorem acquireTable_keeps {s s' : State} {kind : RefKind} {id : DefId} {k : Nat} {fresh : Bool}
    (h : acquireTable s kind id = .ok (s', k, fresh)) :
    s'.cfg = s.cfg ∧ s'.port = s.port ∧ s'.ctxs = s.ctxs ∧ s'.sub = s.sub
      ∧ s'.responses = s.responses ∧ s'.events = s.events := by
  obtain ⟨D, -, ⟨-, sl, sl', -, -, rfl⟩ | ⟨-, -, -, -, T, -, rfl⟩⟩ := acquireTable_ok h <;> simp

/-! ### The two traces -/

/-- A frame emits one event for each channel at most (R207). -/
theorem frame_events_length {s : State} {h : Handle} {s0 s1 : SampleBits} {c c' : Context} {evs : List Event}
    (hf : frame s h s0 s1 c = .ok (c', evs)) : evs.length ≤ 2 := by
  obtain ⟨D, -, rfl, -⟩ := frame_ok hf
  simp only [frameEvents, List.length_append]
  have hlen : ∀ o : Option Event, o.toList.length ≤ 1 := fun o => by cases o <;> simp
  exact Nat.add_le_add (hlen _) (hlen _)

/-- `t` has the parameters and the waiting words of `s`, at most one response more and at most two events more. -/
structure Appends (s t : State) : Prop where
  cfg : t.cfg = s.cfg
  port : t.port = s.port
  responses : ∃ rs, t.responses = s.responses ++ rs ∧ rs.length ≤ 1
  events : ∃ es, t.events = s.events ++ es ∧ es.length ≤ 2

theorem Appends.of_response {s t : State} {r : Response} (cfg : t.cfg = s.cfg) (port : t.port = s.port)
    (responses : t.responses = s.responses ++ [r]) (events : t.events = s.events) : Appends s t :=
  ⟨cfg, port, ⟨_, responses, le_rfl⟩, ⟨[], by simp [events], by simp⟩⟩

theorem Effect.appends {s t : State} {i : Instr} (h : Effect s i t) : Appends s t := by
  cases h with
  | refuse | query | freeLookup | clear | destroy | submitNone | setPitch =>
    exact .of_response rfl rfl rfl rfl
  | buildLookup _ acquired | init _ _ acquired =>
    obtain ⟨cfg, port, -, -, responses, events⟩ := acquireTable_keeps acquired
    exact .of_response cfg port (by simp [responses]; rfl) events
  | submit => exact ⟨rfl, rfl, ⟨[], by simp⟩, ⟨[], by simp⟩⟩
  | sample _ _ framed => exact ⟨rfl, rfl, ⟨[], by simp⟩, ⟨_, rfl, frame_events_length framed⟩⟩
  | sampleLast _ _ framed => exact ⟨rfl, rfl, ⟨_, rfl, le_rfl⟩, ⟨_, rfl, frame_events_length framed⟩⟩

/-- Settles O11: every effect appends, and the step itself takes the word. -/
theorem stepKeepsParametersAndAppendsToTraces : Obligations.StepKeepsParametersAndAppendsToTraces := by
  intro s t h
  obtain ⟨w, rest, hp, ht⟩ := step_next h
  have happ : Appends { s with port := rest } t := by
    rcases ht with rfl | ⟨i, -, hexec⟩
    · exact .of_response rfl rfl rfl rfl
    · exact (exec_effect hexec).appends
  obtain ⟨hcfg, hport, ⟨rs, hrs, hrlen⟩, ⟨es, hes, helen⟩⟩ := happ
  have hport : t.port = rest := hport
  refine ⟨hcfg, by simp [hp, hport], by simp [hp], ⟨rs, hrs.symm⟩, ?_, ⟨es, hes.symm⟩, ?_⟩
  · simpa [hrs] using hrlen
  · simpa [hes] using helen

/-! ### The table memory under a command -/

/-- A command leaves the table memory as it was, or writes the table of a legal definition to a slot that was free (R106). -/
theorem Effect.mem {s t : State} {i : Instr} (h : Effect s i t) :
    t.mem = s.mem ∨ ∃ k D T, s.leastFreeSlot k ∧ fieldsLegal s.cfg D = true
      ∧ t.mem = writeTable s.cfg s.mem k D.W T := by
  cases h with
  | buildLookup _ acquired | init _ _ acquired =>
    obtain ⟨D, -, ⟨-, sl, sl', -, -, rfl⟩ | ⟨-, -, hlegal, hfree, T, -, rfl⟩⟩ := acquireTable_ok acquired
    · exact Or.inl rfl
    · exact Or.inr ⟨_, D, T, hfree, hlegal, rfl⟩
  | _ => exact Or.inl rfl

/-- The ranges of R104. -/
theorem fieldsLegal_iff {cfg : Config} {D : Definition} :
    fieldsLegal cfg D = true ↔ 2 ≤ D.W ∧ D.W ≤ cfg.wmax ∧ 1 ≤ D.seed ∧ D.seed ≤ mask D.W ∧ D.taps ≤ mask D.W
      ∧ 1 ≤ D.length ∧ D.length ≤ 2 ^ D.W - 1 ∧ D.safe < D.length ∧ 1 ≤ D.R ∧ D.R ≤ 2 ^ 32 - 1
      ∧ D.flags ≤ 7 := by
  simp only [fieldsLegal, Bool.and_eq_true, decide_eq_true_eq, and_assoc]

theorem W_bounds_of_fieldsLegal {cfg : Config} {D : Definition} (h : fieldsLegal cfg D = true) :
    2 ≤ D.W ∧ D.W ≤ cfg.wmax := by
  obtain ⟨hlow, hhigh, -⟩ := fieldsLegal_iff.1 h
  exact ⟨hlow, hhigh⟩

/-- Writing the table of slot `k` leaves the entries of every other slot (R50). -/
theorem read_writeTable_other_slot {cfg : Config} {mem : Memory} {k k' W j : Nat} {T : List Int}
    (hW : W ≤ cfg.wmax) (hk : k' ≠ k) (hj : j < 2 ^ cfg.wmax) :
    Memory.read (writeTable cfg mem k W T) (entryKey cfg k' j) = Memory.read mem (entryKey cfg k' j) :=
  read_writeTable_other fun _ hi heq =>
    hk (entryKey_inj hj (hi.trans_le (Nat.pow_le_pow_right (by decide) hW)) heq).1

/-- Settles O31: the one slot a command writes entries of is free before it. -/
theorem validTablesAreReadOnly : Obligations.ValidTablesAreReadOnly := by
  intro i s t _ h k sl hsl hvalid j hj
  have heffect := exec_effect h
  rw [State.entry, State.entry, heffect.appends.cfg]
  rcases heffect.mem with hmem | ⟨n, D, T, ⟨⟨sln, hsln, hfree⟩, -⟩, hlegal, hmem⟩
  · rw [hmem]
  · have hkn : k ≠ n := by
      rintro rfl
      have : sl = sln := by simpa [hsl] using hsln
      simp [this, hfree] at hvalid
    rw [hmem, read_writeTable_other_slot (W_bounds_of_fieldsLegal hlegal).2 hkn hj]

/-! ### The registers READ_REG names, power-on -/

/-- READ_REG of a register, outside a window, on a context in use (R189). -/
theorem exec_readReg_of_some {s : State} {d : Handle} {c : Context} {reg : RegNumber} {v : Word}
    (closed : s.sub.active = false) (uses : s.uses d c) (hv : registerValue s.cfg c reg = some v) :
    exec (.readReg d reg) s = .next (s.answering v 0) := by
  show outsideWindow s _ = _
  rw [outsideWindow_closed closed, withDecoder_uses uses, hv]
  rfl

/-- READ_REG of a number that names no register, outside a window, on a context in use (R189). -/
theorem exec_readReg_of_none {s : State} {d : Handle} {c : Context} {reg : RegNumber}
    (closed : s.sub.active = false) (uses : s.uses d c) (hv : registerValue s.cfg c reg = none) :
    exec (.readReg d reg) s = .next (s.refusing .invalidParam) := by
  show outsideWindow s _ = _
  rw [outsideWindow_closed closed, withDecoder_uses uses, hv]
  rfl

/-- READ_REG's number for the liveness state, from the counters (R36, R38). -/
theorem livenessCode_liveness (cfg : Config) (c : Context) :
    livenessCode (liveness cfg c) = if cfg.timeout < c.timecodeTicker.toNat then 2
      else if cfg.confirm < c.validCounter.toNat then 1 else 0 := by
  unfold liveness
  split_ifs <;> rfl

/-- READ_REG's number for the zero-crossing state, from the flags (R37, R38). -/
theorem crossingCode_crossingState (ch : Channel) :
    crossingCode (crossingState ch) = if ch.swapped then 0 else if ch.positive then 1 else 2 := by
  unfold crossingState
  split_ifs <;> rfl

/-- Settles O16: with the two derived states under their names, R38's list agrees with `registerValue` entry by entry. -/
theorem readRegAnswersTheNamedField : Obligations.ReadRegAnswersTheNamedField := by
  intro s d c closed uses
  rw [← livenessCode_liveness, ← crossingCode_crossingState c.primary, ← crossingCode_crossingState c.secondary]
  intro p hp
  have hvalue : registerValue s.cfg c p.1 = some p.2 :=
    (List.map_inj_left (f := fun p => registerValue s.cfg c p.1) (g := fun p => some p.2)).1 rfl p hp
  exact exec_readReg_of_some closed uses hvalue

/-- R38 names no register with a reserved number. -/
theorem registerValue_reserved (cfg : Config) (c : Context) {reg : RegNumber}
    (h : 0x0C ≤ reg.toNat ∧ reg.toNat ≤ 0x0F ∨ 0x16 ≤ reg.toNat ∧ reg.toNat ≤ 0x17 ∨ 0x1E ≤ reg.toNat) :
    registerValue cfg c reg = none := by
  unfold registerValue
  split
  any_goals rfl
  all_goals omega

/-- Settles O17: no register has a reserved number. -/
theorem readRegOfReservedNumberIsInvalid : Obligations.ReadRegOfReservedNumberIsInvalid :=
  fun s _ c _ closed uses hreg => exec_readReg_of_none closed uses (registerValue_reserved s.cfg c hreg)

/-- Settles O60: every list of `State.powerOn` repeats one value. -/
theorem powerOnLeavesEverythingFree : Obligations.PowerOnLeavesEverythingFree := by
  intro cfg
  refine ⟨List.length_replicate, List.length_replicate, fun sl hsl => List.eq_of_mem_replicate hsl,
    fun c hc => ?_, rfl, rfl, rfl⟩
  rw [List.eq_of_mem_replicate hc]
  exact ⟨rfl, rfl, rfl⟩

end Sys2Proof.Machine

/-! ### The bit window -/

namespace Sys2Proof.Machine

/-- Forward, the bits move one place toward bit 0 and the new one enters at bit `W-1` (R160). -/
theorem testBit_shiftIn_forward {D : Definition} {b : Bool} {window : Nat} (hW : 1 ≤ D.W)
    (hw : window < 2 ^ D.W) (k : Nat) :
    (shiftIn D true b window).testBit k = if k = D.W - 1 then b else window.testBit (k + 1) := by
  have hbit : (shiftIn D true b window).testBit k =
      (window.testBit (1 + k) || (decide (k ≥ D.W - 1) && (decide (k - (D.W - 1) = 0) && b))) := by
    simp [shiftIn, Nat.testBit_bool_toNat]
  rw [hbit, Nat.add_comm 1 k]
  by_cases hk : k = D.W - 1
  · have htop : window.testBit (k + 1) = false :=
      Nat.testBit_lt_two_pow (by rwa [hk, Nat.sub_add_cancel hW])
    simp [hk ▸ htop, hk]
  · have hne : ¬ (k ≥ D.W - 1 ∧ k - (D.W - 1) = 0) := by omega
    by_cases hge : k ≥ D.W - 1 <;> simp_all

/-- In reverse, the bits move one place away from bit 0, inside `W` bits, and the new one enters at bit 0 (R160). -/
theorem testBit_shiftIn_reverse (D : Definition) (b : Bool) (window k : Nat) :
    (shiftIn D false b window).testBit k = if k = 0 then b else (decide (k < D.W) && window.testBit (k - 1)) := by
  have hbit : (shiftIn D false b window).testBit k =
      ((decide (k ≥ 1) && window.testBit (k - 1)) && decide (k < D.W) || (decide (k = 0) && b)) := by
    simp [shiftIn, mask, Nat.testBit_bool_toNat, Bool.and_comm]
  rw [hbit]
  cases k <;> simp [Bool.and_comm]

/-- The window stays inside `W` bits (R28, R161). -/
theorem shiftIn_lt {D : Definition} {forwards b : Bool} {window : Nat} (hW : 1 ≤ D.W) (hw : window < 2 ^ D.W) :
    shiftIn D forwards b window < 2 ^ D.W := by
  refine Nat.lt_pow_two_of_testBit _ fun k hk => ?_
  cases forwards with
  | true =>
    rw [testBit_shiftIn_forward hW hw, if_neg (by omega)]
    exact Nat.testBit_lt_two_pow (hw.trans_le (Nat.pow_le_pow_right (by decide) (by omega)))
  | false =>
    rw [testBit_shiftIn_reverse D b window, if_neg (by omega)]
    simp [Nat.not_lt.2 hk]

/-- Settles O47, bit by bit in each direction. -/
theorem shiftKeepsTheWindow : Obligations.ShiftKeepsTheWindow := fun D b window hW hw =>
  ⟨⟨shiftIn_lt hW hw, testBit_shiftIn_forward hW hw⟩,
    ⟨shiftIn_lt hW hw, testBit_shiftIn_reverse D b window⟩⟩

end Sys2Proof.Machine

/-! ### The invariant as a proposition, part by part -/

namespace Sys2Proof.Machine

/-- The ranges of the estimates of a context (R26, R33). -/
structure Estimated (d : Context) : Prop where
  signal : d.signalLevel.toNat ≤ 2 ^ 32 - 2 ^ 16
  channel : ∀ c, channelWf (d.channel c) = true

/-- What a context in use bound to `D` keeps (R26 to R29, R33, R39). -/
structure ContextSound (cfg : Config) (slots : List Slot) (D : Definition) (d : Context) : Prop where
  slot : ∃ sl, slots[d.slot.toNat]? = some sl ∧ sl.valid = true ∧ sl.defId = d.defId
  definition : cfg.definition? d.defId = some D
  window : d.bitstream.toNat < 2 ^ D.W
  position : d.timecode = sentinel ∧ d.validCounter = 0 ∨ d.timecode.toNat < D.length
  estimated : Estimated d
  pitch : d.pitch.getLsbD 31 = false
  age : d.validCounter = 0 ∨ d.timecodeTicker.toNat ≤ cfg.timeout

/-- The entries of slot `t` are the table of the legal definition `D` (R56, R103). -/
def HoldsTable (cfg : Config) (mem : Memory) (t : Nat) (D : Definition) : Prop :=
  fieldsLegal cfg D = true ∧ ∃ T, build D = some T ∧
    ∀ i < 2 ^ D.W, Memory.read mem (entryKey cfg t i) = tc32 (T.getD i (-1))

/-- What slot `t` keeps, the number of its contexts apart (R21, R103). -/
structure SlotSound (cfg : Config) (mem : Memory) (t : Nat) (sl : Slot) : Prop where
  references : sl.valid = (sl.extRefs != 0 || sl.decRefs != 0)
  table : sl.valid = true → ∃ D, cfg.definition? sl.defId = some D ∧ HoldsTable cfg mem t D

/-- R22 by index: no two valid slots hold the same definition. -/
def DistinctSlots (slots : List Slot) : Prop :=
  ∀ (t t' : Nat) (sl sl' : Slot), slots[t]? = some sl → slots[t']? = some sl' → sl.valid = true →
    sl'.valid = true → sl.defId = sl'.defId → t = t'

/-- What slots, table memory and contexts keep, the reference counts apart. -/
structure BlockSound (cfg : Config) (slots : List Slot) (mem : Memory) (ctxs : List Context) : Prop where
  legal : cfg.legal = true
  slots_length : slots.length = cfg.ntab
  ctxs_length : ctxs.length = cfg.ndec
  mem_wf : Memory.wf mem = true
  mem_keys : ∀ p ∈ mem, p.1 < cfg.ntab * 2 ^ cfg.wmax
  distinct : DistinctSlots slots
  slot : ∀ t sl, slots[t]? = some sl → SlotSound cfg mem t sl
  context : ∀ d ∈ ctxs, d.inUse = true → ∃ D, ContextSound cfg slots D d

/-- Context `d` is in use and bound to slot `t`. -/
def binds (t : Nat) (d : Context) : Bool := d.inUse && d.slot.toNat == t

/-- R21: `dec_refs` of every slot counts the contexts bound to it. -/
def Counted (slots : List Slot) (ctxs : List Context) : Prop :=
  ∀ t sl, slots[t]? = some sl → sl.decRefs.toNat = ctxs.countP (binds t)

/-- An open window has frames to come and a context in use with a rate (R25, R34). -/
def WindowSound (cfg : Config) (ctxs : List Context) (w : Window) : Prop :=
  w.active = true → 1 ≤ w.remaining.toNat ∧ w.remaining.toNat ≤ w.count.toNat ∧
    ∃ d, w.handle.toNat < cfg.ndec ∧ ctxs[w.handle.toNat]? = some d ∧ d.inUse = true ∧ d.rate ≠ 0

theorem channelWf_iff {ch : Channel} : channelWf ch = true ↔
    -32768 * 2 ^ 16 ≤ ch.zero.toInt ∧ ch.zero.toInt ≤ 32767 * 2 ^ 16 ∧ ch.peak.toNat ≤ 2 ^ 32 - 2 ^ 16 := by
  simp only [channelWf, Bool.and_eq_true, decide_eq_true_eq, and_assoc]

theorem slotAt_eq_iff {s : State} {t : Nat} {p : Slot → Prop} (ht : t < s.slots.length) :
    p (s.slotAt t) ↔ ∀ sl, s.slots[t]? = some sl → p sl := by
  simp [State.slotAt, List.getElem?_eq_getElem ht]

theorem holdsTable_iff {s : State} {t : Nat} {D : Definition} :
    HoldsTable s.cfg s.mem t D ↔ fieldsLegal s.cfg D = true ∧ s.holdsTable t D = true := by
  unfold State.holdsTable HoldsTable
  cases build D <;> simp [State.entry]

theorem slotSound_iff {cfg : Config} {mem : Memory} {t : Nat} {sl : Slot} : SlotSound cfg mem t sl ↔
    sl.valid = (sl.extRefs != 0 || sl.decRefs != 0)
      ∧ (sl.valid = true → ∃ D, cfg.definition? sl.defId = some D ∧ HoldsTable cfg mem t D) :=
  ⟨fun ⟨references, table⟩ => ⟨references, table⟩, fun ⟨references, table⟩ => ⟨references, table⟩⟩

theorem slotWf_iff {s : State} {t : Nat} (ht : t < s.slots.length) : s.slotWf t = true ↔
    ∀ sl, s.slots[t]? = some sl → sl.decRefs.toNat = s.ctxs.countP (binds t) ∧ SlotSound s.cfg s.mem t sl := by
  have hcount : s.boundCount t = s.ctxs.countP (binds t) := rfl
  rw [← slotAt_eq_iff ht, slotSound_iff, State.slotWf, hcount]
  generalize s.slotAt t = sl
  cases sl.valid with
  | false => simp
  | true => cases s.cfg.definition? sl.defId <;> simp [holdsTable_iff, and_assoc]

theorem estimated_iff {d : Context} : Estimated d ↔
    d.signalLevel.toNat ≤ 2 ^ 32 - 2 ^ 16 ∧ channelWf d.primary = true ∧ channelWf d.secondary = true :=
  ⟨fun ⟨signal, channel⟩ => ⟨signal, channel .primary, channel .secondary⟩,
    fun ⟨signal, hp, hs⟩ => ⟨signal, fun c => by cases c <;> assumption⟩⟩

theorem Estimated.congr {d d' : Context} (hd : Estimated d) (hsignal : d'.signalLevel = d.signalLevel)
    (hprimary : d'.primary = d.primary) (hsecondary : d'.secondary = d.secondary) : Estimated d' := by
  rw [estimated_iff] at hd ⊢
  rwa [hsignal, hprimary, hsecondary]

theorem contextWf_iff {s : State} {d : Context} (hlen : s.slots.length = s.cfg.ntab) :
    s.contextWf d = true ↔ (d.inUse = true → ∃ D, ContextSound s.cfg s.slots D d) := by
  cases hu : d.inUse with
  | false => simp [State.contextWf, hu]
  | true =>
    cases hD : s.cfg.definition? d.defId with
    | none =>
      have : ¬ ∃ D, ContextSound s.cfg s.slots D d := fun ⟨D, h⟩ => by simpa [hD] using h.definition
      simp [State.contextWf, hu, hD, this]
    | some D =>
      simp only [State.contextWf, hu, hD, Bool.not_true, Bool.false_or, Bool.and_eq_true, Bool.or_eq_true,
        decide_eq_true_eq, beq_iff_eq, Bool.not_eq_true']
      constructor
      · rintro ⟨⟨⟨⟨⟨⟨⟨⟨hlt, hvalid⟩, hid⟩, hwindow, hpos⟩, hsignal⟩, hpitch⟩, hprimary⟩, hsecondary⟩, hage⟩ -
        exact ⟨D, ⟨_, getElem?_of_slotAt_valid hvalid, hvalid, hid⟩, hD, hwindow, hpos,
          estimated_iff.2 ⟨hsignal, hprimary, hsecondary⟩, hpitch, hage⟩
      · intro h
        obtain ⟨D', ⟨sl, hsl, hvalid, hid⟩, hD', hwindow, hpos, hest, hpitch, hage⟩ := h trivial
        obtain rfl : D = D' := by simpa [hD] using hD'
        obtain ⟨hsignal, hprimary, hsecondary⟩ := estimated_iff.1 hest
        rw [slotAt_of_getElem? hsl]
        have hlt : d.slot.toNat < s.cfg.ntab := hlen ▸ (List.getElem?_eq_some_iff.1 hsl).1
        exact ⟨⟨⟨⟨⟨⟨⟨⟨hlt, hvalid⟩, hid⟩, hwindow, hpos⟩, hsignal⟩, hpitch⟩, hprimary⟩, hsecondary⟩, hage⟩

theorem windowWf_iff {s : State} : s.windowWf = true ↔ WindowSound s.cfg s.ctxs s.sub := by
  unfold State.windowWf WindowSound
  cases s.sub.active with
  | false => simp
  | true =>
    cases hd : s.context? s.sub.handle with
    | none =>
      have hno : ∀ d, ¬ (s.sub.handle.toNat < s.cfg.ndec ∧ s.ctxs[s.sub.handle.toNat]? = some d) := fun d h => by
        simpa [hd] using context?_eq_some.2 h
      simp only [not_and] at hno
      simp +contextual [hno]
    | some d =>
      obtain ⟨hlt, hget⟩ := context?_eq_some.1 hd
      simp [hlt, hget, and_assoc]

theorem slotsDistinct_iff {s : State} : s.slotsDistinct = true ↔ DistinctSlots s.slots := by
  rw [State.slotsDistinct, decide_eq_true_eq, List.nodup_iff_pairwise_ne, List.pairwise_map, List.pairwise_filter,
    List.pairwise_iff_getElem]
  constructor
  · intro h t t' sl sl' hsl hsl' hv hv' hid
    obtain ⟨ht, rfl⟩ := List.getElem?_eq_some_iff.1 hsl
    obtain ⟨ht', rfl⟩ := List.getElem?_eq_some_iff.1 hsl'
    rcases Nat.lt_trichotomy t t' with hlt | heq | hlt
    · exact absurd hid (h t t' ht ht' hlt hv hv')
    · exact heq
    · exact absurd hid.symm (h t' t ht' ht hlt hv' hv)
  · intro h t t' ht ht' hlt hv hv' hid
    exact hlt.ne (h t t' _ _ (List.getElem?_eq_getElem ht) (List.getElem?_eq_getElem ht') hv hv' hid)

/-- The invariant of the block is its parts. -/
theorem wellFormed_iff {s : State} : s.wellFormed = true ↔
    BlockSound s.cfg s.slots s.mem s.ctxs ∧ Counted s.slots s.ctxs ∧ WindowSound s.cfg s.ctxs s.sub := by
  simp only [State.wellFormed, State.memoryWf, Bool.and_eq_true, beq_iff_eq, List.all_eq_true, decide_eq_true_eq,
    List.mem_range, slotsDistinct_iff, windowWf_iff]
  constructor
  · rintro ⟨⟨⟨⟨⟨⟨⟨legal, hslots⟩, hctxs⟩, hmem, hkeys⟩, hdistinct⟩, hslot⟩, hctx⟩, hwindow⟩
    have hboth : ∀ t sl, s.slots[t]? = some sl →
        sl.decRefs.toNat = s.ctxs.countP (binds t) ∧ SlotSound s.cfg s.mem t sl := fun t sl hsl => by
      have ht := (List.getElem?_eq_some_iff.1 hsl).1
      exact (slotWf_iff ht).1 (hslot t (hslots ▸ ht)) sl hsl
    exact ⟨⟨legal, hslots, hctxs, hmem, hkeys, hdistinct, fun t sl hsl => (hboth t sl hsl).2,
      fun d hd => (contextWf_iff hslots).1 (hctx d hd)⟩, fun t sl hsl => (hboth t sl hsl).1, hwindow⟩
  · rintro ⟨h, hcounted, hwindow⟩
    exact ⟨⟨⟨⟨⟨⟨⟨h.legal, h.slots_length⟩, h.ctxs_length⟩, h.mem_wf, h.mem_keys⟩, h.distinct⟩,
      fun t ht => (slotWf_iff (h.slots_length ▸ ht)).2 fun sl hsl => ⟨hcounted t sl hsl, h.slot t sl hsl⟩⟩,
      fun d hd => (contextWf_iff h.slots_length).2 (h.context d hd)⟩, hwindow⟩

/-- The bounds of R6 that the invariant rests on. -/
theorem bounds_of_legal {cfg : Config} (h : cfg.legal = true) :
    cfg.wmax ≤ 24 ∧ cfg.ntab ≤ 255 ∧ cfg.ndec ≤ 255 := by
  simp only [Config.legal, Bool.and_eq_true, decide_eq_true_eq] at h
  omega

/-! ### GET_POSITION in a well-formed state -/

/-- GET_POSITION outside a window, on a context in use (R186). -/
theorem exec_getPosition {s : State} {d : Handle} {c : Context} (closed : s.sub.active = false)
    (uses : s.uses d c) : exec (.getPosition d) s =
      if isAlive s.cfg c then .next (s.answering c.timecode c.timecodeTicker)
      else .next (s.answering 0xFFFFFFFF 0) := by
  show outsideWindow s _ = _
  rw [outsideWindow_closed closed, withDecoder_uses uses]
  rfl

/-- Settles O54: an alive context has a positive `valid_counter`, so its timecode is a position. -/
theorem surfacedPositionIsInTheSequence : Obligations.SurfacedPositionIsInTheSequence := by
  intro s d c D hwf closed uses hD
  rw [exec_getPosition closed uses]
  split
  · next halive =>
    obtain ⟨-, hget, hu⟩ := uses
    obtain ⟨D', hc⟩ := (wellFormed_iff.1 hwf).1.context c (List.mem_of_getElem? hget) hu
    obtain rfl : D = D' := by simpa [hD] using hc.definition
    simp only [isAlive, Bool.and_eq_true, decide_eq_true_eq] at halive
    have hcount : c.validCounter ≠ 0 := fun h0 => by simp [h0] at halive
    have hposition : c.timecode.toNat < D.length := hc.position.resolve_left fun h => hcount h.2
    exact Or.inr ⟨_, _, rfl, hposition, halive.2⟩
  · exact Or.inl rfl

end Sys2Proof.Machine

/-! ### The estimates over one sample -/

namespace Sys2Proof.Machine

/-- `asr` moves a value toward 0, and not past it. -/
theorem asr_between (x : Int) (k : Nat) : min 0 x ≤ asr x k ∧ asr x k ≤ max 0 x := by
  have hpos : (0 : Int) < 2 ^ k := by positivity
  unfold asr
  rcases le_or_gt 0 x with hx | hx
  · have hlow := Int.ediv_nonneg hx hpos.le
    have hhigh := Int.ediv_le_self (2 ^ k) hx
    omega
  · have hlow : x ≤ x / 2 ^ k := (Int.le_ediv_iff_mul_le hpos).2 (by nlinarith)
    have hhigh := Int.ediv_neg_of_neg_of_pos hx hpos
    omega

theorem toInt_tc32 {x : Int} (hlow : -2 ^ 31 ≤ x) (hhigh : x < 2 ^ 31) : (tc32 x).toInt = x :=
  BitVec.toInt_ofInt_eq_self (by decide) hlow hhigh

theorem toNat_tc32 {x : Int} (hlow : 0 ≤ x) (hhigh : x < 2 ^ 32) : ((tc32 x).toNat : Int) = x := by
  rw [tc32, BitVec.toNat_ofInt]
  omega

theorem sampleValue_bounds (v : SampleBits) : -32768 ≤ sampleValue v ∧ sampleValue v ≤ 32767 := by
  have hlow := BitVec.le_toInt v
  have hhigh := BitVec.toInt_lt (x := v)
  unfold sampleValue
  omega

section Sample

variable {cfg : Config} {v : Int} {ch : Channel} (hlow : -32768 ≤ v) (hhigh : v ≤ 32767)
  (hch : channelWf ch = true)
include hlow hhigh hch

/-- The deviation of a sample from a zero-level in range (R121). -/
theorem natAbs_deviation_le : (deviation v ch).natAbs ≤ 2 ^ 32 - 2 ^ 16 := by
  obtain ⟨hzlow, hzhigh, -⟩ := channelWf_iff.1 hch
  unfold deviation
  omega

/-- The zero-level moves toward the sample and stays in range (R33, R124). -/
theorem smoothZero_bounds : -32768 * 2 ^ 16 ≤ (smoothZero cfg ch.zero v).toInt
    ∧ (smoothZero cfg ch.zero v).toInt ≤ 32767 * 2 ^ 16 := by
  obtain ⟨hzlow, hzhigh, -⟩ := channelWf_iff.1 hch
  obtain ⟨halow, hahigh⟩ := asr_between (v * 2 ^ 16 - ch.zero.toInt) cfg.zeroShift
  rw [smoothZero, toInt_tc32 (by omega) (by omega)]
  omega

/-- The peak of a sample, whether or not it confirms a crossing, stays in range (R33, R126, R127). -/
theorem channelAfter_wf (level : Word) : channelWf (channelAfter cfg level ch v) = true := by
  obtain ⟨-, -, hpeak⟩ := channelWf_iff.1 hch
  obtain ⟨hzlow, hzhigh⟩ := smoothZero_bounds (cfg := cfg) hlow hhigh hch
  have hdev := natAbs_deviation_le hlow hhigh hch
  refine channelWf_iff.2 ⟨hzlow, hzhigh, ?_⟩
  unfold channelAfter
  split
  · simp only [crossed, BitVec.toNat_ofNat]
    omega
  · simp only [held, BitVec.toNat_ofNat]
    omega

end Sample

/-- The signal level moves toward the deviation and stays in range (R26, R125). -/
theorem smoothSignal_le {cfg : Config} {level : Word} {adev : Nat} (hlevel : level.toNat ≤ 2 ^ 32 - 2 ^ 16)
    (hadev : adev ≤ 2 ^ 32 - 2 ^ 16) : (smoothSignal cfg level adev).toNat ≤ 2 ^ 32 - 2 ^ 16 := by
  obtain ⟨hlow, hhigh⟩ := asr_between ((adev : Int) - level.toNat) cfg.signalShift
  have hvalue := toNat_tc32 (x := level.toNat + asr ((adev : Int) - level.toNat) cfg.signalShift) (by omega)
    (by omega)
  unfold smoothSignal
  omega

/-- One sample of one channel keeps the ranges of both channels and of the signal level (R126). -/
theorem zeroCross_estimated {cfg : Config} {h : Handle} {c : ChannelId} {v : Int} {d : Context}
    (hlow : -32768 ≤ v) (hhigh : v ≤ 32767) (hd : Estimated d) : Estimated (zeroCross cfg h c v d).1 where
  signal := smoothSignal_le hd.signal (natAbs_deviation_le hlow hhigh (hd.channel c))
  channel c' := by
    by_cases hc : c' = c
    · rw [hc, zeroCross_channel]
      exact channelAfter_wf hlow hhigh (hd.channel c) _
    · rw [zeroCross_channel_of_ne _ _ hc]
      exact hd.channel c'

/-! ### A whole frame -/

/-- The direction and the tick touch no estimate (R143, R165). -/
theorem tick_direction_estimated {cfg : Config} {D : Definition} {xp xs : Bool} {d : Context} (hd : Estimated d) :
    Estimated (tick cfg (direction D xp xs d)) := by
  rcases direction_cases D xp xs d with hdir | hdir | ⟨f, hdir⟩ <;> rw [hdir] <;> exact hd.congr rfl rfl rfl

theorem primarySample_bounds (D : Definition) (s0 s1 : SampleBits) :
    -32768 ≤ primarySample D s0 s1 ∧ primarySample D s0 s1 ≤ 32767 := sampleValue_bounds _

theorem secondarySample_bounds (D : Definition) (s0 s1 : SampleBits) :
    -32768 ≤ secondarySample D s0 s1 ∧ secondarySample D s0 s1 ≤ 32767 := sampleValue_bounds _

theorem frameTicked_estimated {s : State} {D : Definition} {h : Handle} {s0 s1 : SampleBits} {d : Context}
    (hd : Estimated d) : Estimated (frameTicked s D h s0 s1 d) := by
  obtain ⟨hplow, hphigh⟩ := primarySample_bounds D s0 s1
  obtain ⟨hslow, hshigh⟩ := secondarySample_bounds D s0 s1
  exact tick_direction_estimated
    (zeroCross_estimated hslow hshigh (zeroCross_estimated hplow hphigh hd))

/-- The tick zeroes the count of a context that is past `TIMEOUT` (R39, R165). -/
theorem tick_age (cfg : Config) (d : Context) :
    (tick cfg d).validCounter = 0 ∨ (tick cfg d).timecodeTicker.toNat ≤ cfg.timeout := by
  unfold tick
  dsimp only
  split
  · exact Or.inl rfl
  · next h => exact Or.inr (Nat.not_lt.1 h)

/-- Before its lookup a frame only keeps or zeroes the count (R144, R165). -/
theorem frameTicked_validCounter (s : State) (D : Definition) (h : Handle) (s0 s1 : SampleBits) (d : Context) :
    (frameTicked s D h s0 s1 d).validCounter = 0
      ∨ (frameTicked s D h s0 s1 d).validCounter = d.validCounter := by
  have hdirection : ∀ xp xs q, (direction D xp xs q).validCounter = 0
      ∨ (direction D xp xs q).validCounter = q.validCounter := fun xp xs q => by
    rcases direction_cases D xp xs q with hdir | hdir | ⟨f, hdir⟩ <;> simp [hdir]
  have htick : ∀ q, (tick s.cfg q).validCounter = 0 ∨ (tick s.cfg q).validCounter = q.validCounter := fun q => by
    unfold tick
    dsimp only
    split <;> simp
  rcases htick _ with h0 | heq
  · exact Or.inl h0
  · rw [frameTicked, heq]
    simpa [zeroCross] using hdirection _ _ _

section Frame

variable {cfg : Config} {slots : List Slot} {D : Definition} {d : Context}

/-- What is sound stays sound under changes that keep the binding, the window, the position and the pitch. -/
theorem ContextSound.of_keeps {d' : Context} (hd : ContextSound cfg slots D d)
    (hslot : d'.slot = d.slot) (hid : d'.defId = d.defId) (hbits : d'.bitstream = d.bitstream)
    (hpitch : d'.pitch = d.pitch) (htime : d'.timecode = d.timecode)
    (hcount : d'.validCounter = 0 ∨ d'.validCounter = d.validCounter)
    (hest : Estimated d') (hage : d'.validCounter = 0 ∨ d'.timecodeTicker.toNat ≤ cfg.timeout) :
    ContextSound cfg slots D d' where
  slot := by rw [hslot, hid]; exact hd.slot
  definition := by rw [hid]; exact hd.definition
  window := by rw [hbits]; exact hd.window
  position := by
    rw [htime]
    refine hd.position.imp_left fun ⟨hsentinel, h0⟩ => ⟨hsentinel, ?_⟩
    rcases hcount with h | h
    · exact h
    · rw [h, h0]
  estimated := hest
  pitch := by rw [hpitch]; exact hd.pitch
  age := hage

theorem frameTicked_sound {s : State} {h : Handle} {s0 s1 : SampleBits} (hd : ContextSound s.cfg slots D d) :
    ContextSound s.cfg slots D (frameTicked s D h s0 s1 d) := by
  obtain ⟨-, hid, hslot, -, hpitch, hbits, htime⟩ := frameTicked_keeps s D h s0 s1 d
  exact hd.of_keeps hslot hid hbits hpitch htime (frameTicked_validCounter s D h s0 s1 d)
    (frameTicked_estimated hd.estimated) (tick_age _ _)

/-- A lookup's answer `r` that is the sentinel or a position is tracked soundly (R162, R163). -/
theorem track_sound {p : MissPolicy} {r : Word} (hd : ContextSound cfg slots D d)
    (hr : r = sentinel ∨ r.toNat < D.length) : ContextSound cfg slots D (track p r d) := by
  obtain ⟨hslot, hdef, hwindow, hpos, hest, hpitch, hage⟩ := hd
  unfold track
  split
  · have hmiss : d.validCounter = 0 → missCount p d.validCounter = 0 := fun h0 => by
      rw [h0]
      cases p <;> rfl
    exact ⟨hslot, hdef, hwindow, hpos.imp_left fun ⟨ht, h0⟩ => ⟨ht, hmiss h0⟩, hest.congr rfl rfl rfl, hpitch,
      hage.imp_left hmiss⟩
  · next hhit =>
    exact ⟨hslot, hdef, hwindow, Or.inr (hr.resolve_left hhit), hest.congr rfl rfl rfl, hpitch,
      Or.inr (Nat.zero_le _)⟩

/-- Every entry of a table under construction is -1 or the number of a step (R102). -/
theorem buildFrom_values {k n s : Nat} {T T' : List Int} (h : buildFrom D k n s T = some T')
    (hT : ∀ v ∈ T, v = -1 ∨ ∃ m < n, v = (m : Int)) : ∀ v ∈ T', v = -1 ∨ ∃ m < n + k, v = (m : Int) := by
  induction k generalizing n s T with
  | zero =>
    obtain rfl : T = T' := by simpa [buildFrom] using h
    exact hT
  | succ k ih =>
    rw [buildFrom] at h
    split at h
    · cases h
    rw [show n + (k + 1) = n + 1 + k by omega]
    refine ih h fun v hv => ?_
    rcases List.mem_or_eq_of_mem_set hv with hv | rfl
    · exact (hT v hv).imp_right fun ⟨m, hm, heq⟩ => ⟨m, by omega, heq⟩
    · exact Or.inr ⟨n, by omega, rfl⟩

/-- Every entry of a built table is -1 or a position (R102, R103). -/
theorem build_values {T : List Int} (h : build D = some T) : ∀ v ∈ T, v = -1 ∨ ∃ m < D.length, v = (m : Int) := by
  have := buildFrom_values h fun v hv => Or.inl (List.eq_of_mem_replicate hv)
  simpa using this

/-- An entry of a slot that holds the table of `D` is the sentinel or a position (R103). -/
theorem HoldsTable.entry {mem : Memory} {t i : Nat} (h : HoldsTable cfg mem t D) (hwmax : cfg.wmax ≤ 24)
    (hi : i < 2 ^ D.W) :
    Memory.read mem (entryKey cfg t i) = sentinel ∨ (Memory.read mem (entryKey cfg t i)).toNat < D.length := by
  obtain ⟨hlegal, T, hbuild, hread⟩ := h
  have hlength : D.length < 2 ^ 32 := by
    obtain ⟨-, hW, -, -, -, -, hlen, -⟩ := fieldsLegal_iff.1 hlegal
    have : 2 ^ D.W ≤ 2 ^ 24 := Nat.pow_le_pow_right (by decide) (hW.trans hwmax)
    omega
  have hvalue : T.getD i (-1) = -1 ∨ ∃ m < D.length, T.getD i (-1) = (m : Int) := by
    rw [List.getD_eq_getElem?_getD]
    cases hT : T[i]? with
    | none => exact Or.inl rfl
    | some v => exact build_values hbuild v (List.mem_of_getElem? hT)
  rw [hread i hi]
  rcases hvalue with hv | ⟨m, hm, hv⟩
  · rw [hv]
    exact Or.inl (by decide)
  · have := toNat_tc32 (x := (m : Int)) (by omega) (by omega)
    rw [hv]
    omega

/-- A resolved bit keeps a context sound: the window stays inside the table, and the entry is a position or a miss (R166). -/
theorem resolve_sound {s : State} {b : Bool} {d' : Context} (hwmax : s.cfg.wmax ≤ 24)
    (htable : HoldsTable s.cfg s.mem d.slot.toNat D) (hd : ContextSound s.cfg slots D d)
    (h : resolve s D b d = some d') : ContextSound s.cfg slots D d' := by
  obtain ⟨w, r, hw, hread, rfl⟩ := resolve_eq_some h
  obtain ⟨hWlow, hWhigh⟩ := W_bounds_of_fieldsLegal htable.1
  have hshift : shiftIn D d.forwards b d.bitstream.toNat < 2 ^ D.W := shiftIn_lt (by omega) hd.window
  have hwlt : w.toNat < 2 ^ D.W := by
    rw [hw, BitVec.toNat_ofNat]
    exact (Nat.mod_le _ _).trans_lt hshift
  have hr : r = sentinel ∨ r.toNat < D.length := by
    obtain ⟨-, -, rfl⟩ := memRead_eq_some.1 hread
    exact htable.entry hwmax hwlt
  obtain ⟨hslot, hdef, -, hpos, hest, hpitch, hage⟩ := hd
  exact track_sound ⟨hslot, hdef, hwlt, hpos, hest.congr rfl rfl rfl, hpitch, hage⟩ hr

end Frame

/-- What a frame keeps of its context (R207). -/
theorem frame_keeps {s : State} {h : Handle} {s0 s1 : SampleBits} {d d' : Context} {evs : List Event}
    (hf : frame s h s0 s1 d = .ok (d', evs)) : d'.inUse = d.inUse ∧ d'.slot = d.slot ∧ d'.rate = d.rate := by
  obtain ⟨D, -, -, hd'⟩ := frame_ok hf
  obtain ⟨hu, -, hslot, hrate, -⟩ := frameTicked_keeps s D h s0 s1 d
  rcases hd' with rfl | ⟨b, hres⟩
  · exact ⟨hu, hslot, hrate⟩
  · obtain ⟨w, r, -, -, rfl⟩ := resolve_eq_some hres
    obtain ⟨hu', -, hslot', hrate', -⟩ :=
      track_keeps s.cfg.missPolicy r { frameTicked s D h s0 s1 d with bitstream := w }
    exact ⟨hu'.trans hu, hslot'.trans hslot, hrate'.trans hrate⟩

/-- A frame keeps a context sound (R207). -/
theorem frame_sound {s : State} {slots : List Slot} {D : Definition} {h : Handle} {s0 s1 : SampleBits}
    {d d' : Context} {evs : List Event} (hwmax : s.cfg.wmax ≤ 24)
    (htable : HoldsTable s.cfg s.mem d.slot.toNat D) (hd : ContextSound s.cfg slots D d)
    (hf : frame s h s0 s1 d = .ok (d', evs)) : ContextSound s.cfg slots D d' := by
  obtain ⟨D', hD', -, hd'⟩ := frame_ok hf
  obtain rfl : D = D' := by simpa [hd.definition] using hD'
  have hticked : ContextSound s.cfg slots D (frameTicked s D h s0 s1 d) := frameTicked_sound hd
  rcases hd' with rfl | ⟨b, hres⟩
  · exact hticked
  · obtain ⟨-, -, hslot, -⟩ := frameTicked_keeps s D h s0 s1 d
    exact resolve_sound hwmax (hslot ▸ htable) hticked hres

end Sys2Proof.Machine

/-! ### The invariant under each kind of change -/

namespace Sys2Proof.Machine

section Changes

variable {cfg : Config} {slots : List Slot} {mem : Memory} {ctxs : List Context} {k n : Nat} {sl sl' : Slot}
  {d d' : Context}

/-- The slot at an index of a list with one slot replaced is the new one, or an old one elsewhere. -/
theorem getElem?_set_cases {α : Type} {l : List α} {a x : α} {t : Nat} (h : (l.set k a)[t]? = some x) :
    t = k ∧ x = a ∨ t ≠ k ∧ l[t]? = some x := by
  rw [List.getElem?_set] at h
  split_ifs at h with hk hlt
  · exact Or.inl ⟨hk.symm, (Option.some.inj h).symm⟩
  · exact Or.inr ⟨fun ht => hk ht.symm, h⟩

/-- Replacing a slot by a valid one with the same definition, or one that no context in use is bound to, keeps contexts
sound. -/
theorem ContextSound.setSlot {D : Definition} (hd : ContextSound cfg slots D d) (hsl : slots[k]? = some sl)
    (h : sl'.valid = true ∧ sl'.defId = sl.defId ∨ d.slot.toNat ≠ k) :
    ContextSound cfg (slots.set k sl') D d := by
  refine { hd with slot := ?_ }
  obtain ⟨slk, hget, hvalid, hid⟩ := hd.slot
  by_cases hk : k = d.slot.toNat
  · subst hk
    obtain ⟨hvalid', hid'⟩ := h.resolve_right fun hne => hne rfl
    obtain rfl : sl = slk := by simpa [hsl] using hget
    exact ⟨sl', List.getElem?_set_self (List.getElem?_eq_some_iff.1 hsl).1, hvalid', hid'.trans hid⟩
  · exact ⟨slk, by rwa [List.getElem?_set_ne hk], hvalid, hid⟩

/-- Rewriting the reference counts of a slot (R106, R107, R109): it may become free where no context in use is bound to it. -/
theorem BlockSound.setSlot (h : BlockSound cfg slots mem ctxs) (hsl : slots[k]? = some sl)
    (hid : sl'.defId = sl.defId) (hwas : sl'.valid = true → sl.valid = true)
    (hrefs : sl'.valid = (sl'.extRefs != 0 || sl'.decRefs != 0))
    (hbound : sl'.valid = true ∨ ∀ d ∈ ctxs, binds k d = false) : BlockSound cfg (slots.set k sl') mem ctxs := by
  have hold : ∀ (t : Nat) (x : Slot), (slots.set k sl')[t]? = some x → x.valid = true →
      ∃ y : Slot, slots[t]? = some y ∧ y.valid = true ∧ y.defId = x.defId := fun t x hx hv => by
    rcases getElem?_set_cases hx with ⟨rfl, rfl⟩ | ⟨-, hx⟩
    · exact ⟨sl, hsl, hwas hv, hid.symm⟩
    · exact ⟨x, hx, hv, rfl⟩
  refine { h with slots_length := by simpa using h.slots_length, distinct := ?_, slot := ?_, context := ?_ }
  · intro t t' x x' hx hx' hv hv' heq
    obtain ⟨y, hy, hvy, hidy⟩ := hold t x hx hv
    obtain ⟨y', hy', hvy', hidy'⟩ := hold t' x' hx' hv'
    exact h.distinct t t' y y' hy hy' hvy hvy' (by rw [hidy, hidy', heq])
  · intro t x hx
    rcases getElem?_set_cases hx with ⟨rfl, rfl⟩ | ⟨-, hx⟩
    · exact ⟨hrefs, fun hv => hid ▸ (h.slot t sl hsl).table (hwas hv)⟩
    · exact h.slot t x hx
  · intro d hd hu
    obtain ⟨D, hD⟩ := h.context d hd hu
    refine ⟨D, hD.setSlot hsl (hbound.imp (fun hv => ⟨hv, hid⟩) fun hno hk => ?_)⟩
    simpa [binds, hu, hk] using hno d hd

/-- Writing the table of slot `k` leaves what every other slot holds. -/
theorem HoldsTable.writeTable_other {D D' : Definition} {T : List Int} {t : Nat} (h : HoldsTable cfg mem t D)
    (ht : t ≠ k) (hW : D'.W ≤ cfg.wmax) : HoldsTable cfg (writeTable cfg mem k D'.W T) t D := by
  obtain ⟨hlegal, T', hbuild, hread⟩ := h
  refine ⟨hlegal, T', hbuild, fun i hi => ?_⟩
  rw [read_writeTable_other_slot hW ht
    (hi.trans_le (Nat.pow_le_pow_right (by decide) (W_bounds_of_fieldsLegal hlegal).2))]
  exact hread i hi

/-- Building the table of a definition that no valid slot holds, in a slot that is free (R103, R106). -/
theorem BlockSound.build {D : Definition} {T : List Int} (h : BlockSound cfg slots mem ctxs)
    (hsl : slots[k]? = some sl) (hfree : sl.valid = false)
    (hlacks : ∀ x ∈ slots, x.valid = true → x.defId ≠ sl'.defId) (hD : cfg.definition? sl'.defId = some D)
    (hlegal : fieldsLegal cfg D = true) (hT : Machine.build D = some T)
    (hrefs : sl'.valid = (sl'.extRefs != 0 || sl'.decRefs != 0)) :
    BlockSound cfg (slots.set k sl') (writeTable cfg mem k D.W T) ctxs := by
  have hW := (W_bounds_of_fieldsLegal hlegal).2
  refine { h with
    slots_length := by simpa using h.slots_length, mem_wf := wf_writeTable h.mem_wf _ _ _, mem_keys := ?_,
    distinct := ?_, slot := ?_, context := ?_ }
  · intro p hp
    rcases mem_writeTable hp with ⟨i, hi, hkey⟩ | hp
    · rw [hkey]
      exact entryKey_lt (h.slots_length ▸ (List.getElem?_eq_some_iff.1 hsl).1)
        (hi.trans_le (Nat.pow_le_pow_right (by decide) hW))
    · exact h.mem_keys p hp
  · intro t t' x x' hx hx' hv hv' heq
    rcases getElem?_set_cases hx with ⟨ht, hnew⟩ | ⟨-, hx⟩ <;>
      rcases getElem?_set_cases hx' with ⟨ht', hnew'⟩ | ⟨-, hx'⟩
    · rw [ht, ht']
    · exact absurd (hnew ▸ heq.symm) (hlacks x' (List.mem_of_getElem? hx') hv')
    · exact absurd (hnew' ▸ heq) (hlacks x (List.mem_of_getElem? hx) hv)
    · exact h.distinct t t' x x' hx hx' hv hv' heq
  · intro t x hx
    rcases getElem?_set_cases hx with ⟨rfl, rfl⟩ | ⟨ht, hx⟩
    · exact ⟨hrefs, fun _ => ⟨D, hD, hlegal, T, hT, fun i hi => read_writeTable h.mem_wf hi⟩⟩
    · obtain ⟨hrefs', htable⟩ := h.slot t x hx
      exact ⟨hrefs', fun hv => (htable hv).imp fun _ ⟨hdef, hholds⟩ => ⟨hdef, hholds.writeTable_other ht hW⟩⟩
  · intro d hd hu
    obtain ⟨D', hD'⟩ := h.context d hd hu
    refine ⟨D', hD'.setSlot hsl (Or.inr ?_)⟩
    rintro rfl
    obtain ⟨x, hx, hv, -⟩ := hD'.slot
    obtain rfl : sl = x := by simpa [hsl] using hx
    simp [hfree] at hv

/-- Writing a context that is sound, or not in use. -/
theorem BlockSound.setContext (h : BlockSound cfg slots mem ctxs)
    (hd : d.inUse = true → ∃ D, ContextSound cfg slots D d) : BlockSound cfg slots mem (ctxs.set n d) where
  __ := h
  ctxs_length := by simpa using h.ctxs_length
  context x hx := by
    rcases List.mem_or_eq_of_mem_set hx with hx | rfl
    · exact h.context x hx
    · exact hd

/-- How a context written changes the number of those bound to a slot. -/
theorem countP_binds_set (hd : ctxs[n]? = some d) (t : Nat) :
    (ctxs.set n d').countP (binds t) + (binds t d).toNat = ctxs.countP (binds t) + (binds t d').toNat := by
  obtain ⟨hn, rfl⟩ := List.getElem?_eq_some_iff.1 hd
  have hpos : binds t ctxs[n] = true → 0 < ctxs.countP (binds t) := fun h =>
    List.countP_pos_iff.2 ⟨_, List.getElem_mem hn, h⟩
  rw [List.countP_set hn]
  cases h : binds t ctxs[n] <;> cases binds t d' <;> simp_all

/-- A context written with the same binding keeps the counts. -/
theorem Counted.setContext (h : Counted slots ctxs) (hd : ctxs[n]? = some d) (hu : d'.inUse = d.inUse)
    (hslot : d'.slot = d.slot) : Counted slots (ctxs.set n d') := fun t x hx => by
  have hcount := countP_binds_set (d' := d') hd t
  have hbinds : binds t d' = binds t d := by simp [binds, hu, hslot]
  rw [hbinds] at hcount
  rw [h t x hx]
  omega

/-- A slot and a context written together, the count of the slot following the binding of the context. -/
theorem Counted.set (h : Counted slots ctxs) (hsl : slots[k]? = some sl) (hd : ctxs[n]? = some d)
    (hother : ∀ t ≠ k, binds t d' = binds t d)
    (hcount : sl'.decRefs.toNat + (binds k d).toNat = sl.decRefs.toNat + (binds k d').toNat) :
    Counted (slots.set k sl') (ctxs.set n d') := fun t x hx => by
  have hset := countP_binds_set (d' := d') hd t
  rcases getElem?_set_cases hx with ⟨rfl, rfl⟩ | ⟨ht, hx⟩
  · rw [h t sl hsl] at hcount
    omega
  · rw [hother t ht] at hset
    rw [h t x hx]
    omega

/-- A slot written with the same `dec_refs` keeps the counts. -/
theorem Counted.setSlot (h : Counted slots ctxs) (hsl : slots[k]? = some sl) (hdec : sl'.decRefs = sl.decRefs) :
    Counted (slots.set k sl') ctxs := fun t x hx => by
  rcases getElem?_set_cases hx with ⟨rfl, rfl⟩ | ⟨-, hx⟩
  · rw [hdec]
    exact h t sl hsl
  · exact h t x hx

/-- While a context is free there is room for one more reference in every `dec_refs` (R21). -/
theorem decRefs_lt (h : BlockSound cfg slots mem ctxs) (hcounted : Counted slots ctxs) (hsl : slots[k]? = some sl)
    (hd : ctxs[n]? = some d) (hfree : d.inUse = false) : sl.decRefs.toNat < 255 := by
  have hlt : ctxs.countP (binds k) < ctxs.length :=
    List.countP_lt_length_iff.2 ⟨d, List.mem_of_getElem? hd, by simp [binds, hfree]⟩
  obtain ⟨-, -, hndec⟩ := bounds_of_legal h.legal
  rw [hcounted k sl hsl]
  exact hlt.trans_le (h.ctxs_length ▸ hndec)

/-- A free slot has no references (R21). -/
theorem SlotSound.no_references {t : Nat} (h : SlotSound cfg mem t sl) (hfree : sl.valid = false) :
    sl.extRefs = 0 ∧ sl.decRefs = 0 := by
  have hrefs := h.references
  rw [hfree] at hrefs
  simpa using hrefs.symm

end Changes

/-! ### Taking a table -/

/-- The number of contexts a reference stands for. -/
def RefKind.contexts : RefKind → Nat
  | .ext => 0
  | .dec => 1

/-- A reference taken to a valid slot keeps it valid and counts (R106). -/
theorem addReference_counts {kind : RefKind} {sl sl' : Slot} (h : addReference kind sl = .ok sl')
    (hroom : kind = .dec → sl.decRefs.toNat < 255) :
    sl'.valid = sl.valid ∧ sl'.defId = sl.defId ∧ (sl'.extRefs != 0 || sl'.decRefs != 0) = true
      ∧ sl'.decRefs.toNat = sl.decRefs.toNat + kind.contexts := by
  rcases addReference_ok h with ⟨rfl, hmax, rfl⟩ | ⟨rfl, rfl⟩
  · have hne : sl.extRefs + 1 ≠ 0 := by bv_omega
    exact ⟨rfl, rfl, by simpa using Or.inl hne, rfl⟩
  · have hlt := hroom rfl
    have hsucc : (sl.decRefs + 1).toNat = sl.decRefs.toNat + 1 :=
      BitVec.toNat_add_of_lt (Nat.succ_lt_succ hlt)
    have hne : sl.decRefs + 1 ≠ 0 := by bv_omega
    exact ⟨rfl, rfl, by simpa using Or.inr hne, hsucc⟩

/-- A freshly built slot is valid, holds its definition and counts one reference (R106). -/
theorem freshSlot_counts (kind : RefKind) (id : DefId) :
    (freshSlot kind id).valid = true ∧ (freshSlot kind id).defId = id
      ∧ ((freshSlot kind id).extRefs != 0 || (freshSlot kind id).decRefs != 0) = true
      ∧ (freshSlot kind id).decRefs.toNat = kind.contexts := by
  cases kind <;> simp [freshSlot, RefKind.contexts]

/-- What a table that was acquired leaves (R106): the block sound, and one slot changed, which is valid, holds the definition
and counts the new reference. -/
theorem acquireTable_sound {s s' : State} {kind : RefKind} {id : DefId} {k : Nat} {fresh : Bool}
    (h : BlockSound s.cfg s.slots s.mem s.ctxs)
    (hroom : kind = .dec → ∀ (t : Nat) (sl : Slot), s.slots[t]? = some sl → sl.decRefs.toNat < 255)
    (acquired : acquireTable s kind id = .ok (s', k, fresh)) :
    BlockSound s.cfg s'.slots s'.mem s.ctxs ∧ (s.cfg.definition? id).isSome = true
      ∧ ∃ sl sl' : Slot, s.slots[k]? = some sl ∧ s'.slots = s.slots.set k sl' ∧ sl'.valid = true ∧ sl'.defId = id
        ∧ sl'.decRefs.toNat = sl.decRefs.toNat + kind.contexts := by
  obtain ⟨D, hD, ⟨-, sl, sl', ⟨hsl, hvalid, hid, -⟩, hadd, rfl⟩ |
    ⟨-, hlacks, hlegal, ⟨⟨sl, hsl, hfree⟩, -⟩, T, hT, rfl⟩⟩ := acquireTable_ok acquired
  · obtain ⟨hvalid', hid', hrefs, hdec⟩ := addReference_counts hadd fun hk => hroom hk k sl hsl
    rw [hvalid] at hvalid'
    exact ⟨h.setSlot hsl hid' (fun _ => hvalid) (hvalid'.trans hrefs.symm) (Or.inl hvalid'), by simp [hD],
      sl, sl', hsl, rfl, hvalid', hid'.trans hid, hdec⟩
  · obtain ⟨hvalid', hid', hrefs, hdec⟩ := freshSlot_counts kind id
    obtain ⟨-, hzero⟩ := (h.slot k sl hsl).no_references hfree
    refine ⟨h.build hsl hfree (by rwa [hid']) (by rwa [hid']) hlegal hT (hvalid'.trans hrefs.symm), by simp [hD],
      sl, _, hsl, rfl, hvalid', hid', by simp [hzero, hdec]⟩

theorem channelWf_initial : channelWf Channel.initial = true := by decide

theorem initial_estimated {d : Context} (hsignal : d.signalLevel = 0) (hprimary : d.primary = Channel.initial)
    (hsecondary : d.secondary = Channel.initial) : Estimated d :=
  estimated_iff.2 ⟨by simp [hsignal], hprimary ▸ channelWf_initial, hsecondary ▸ channelWf_initial⟩

/-- INIT's context is sound where its slot is valid and holds the definition (R201, R208). -/
theorem boundContext_sound {cfg : Config} {slots : List Slot} {D : Definition} {id : DefId} {k : Nat} {sl : Slot}
    (hk : k < 256) (hsl : slots[k]? = some sl) (hvalid : sl.valid = true) (hid : sl.defId = id)
    (hD : cfg.definition? id = some D) : ContextSound cfg slots D (boundContext id k) where
  slot := ⟨sl, by simpa [boundContext, resetAdaptive, Nat.mod_eq_of_lt hk] using hsl, hvalid, hid⟩
  definition := hD
  window := Nat.pow_pos (by decide)
  position := Or.inl ⟨rfl, rfl⟩
  estimated := initial_estimated rfl rfl rfl
  pitch := BitVec.getLsbD_zero
  age := Or.inl rfl

/-- CLEAR keeps a context sound (R202, R208). -/
theorem resetAdaptive_sound {cfg : Config} {slots : List Slot} {D : Definition} {c : Context}
    (hc : ContextSound cfg slots D c) : ContextSound cfg slots D (resetAdaptive c) where
  slot := hc.slot
  definition := hc.definition
  window := Nat.pow_pos (by decide)
  position := Or.inl ⟨rfl, rfl⟩
  estimated := initial_estimated rfl rfl rfl
  pitch := BitVec.getLsbD_zero
  age := Or.inl rfl

/-- SUBMIT keeps a context sound: only the window reads the rate (R25, R204). -/
theorem ContextSound.setRate {cfg : Config} {slots : List Slot} {D : Definition} {c : Context}
    (hc : ContextSound cfg slots D c) (rate : Field24) : ContextSound cfg slots D { c with rate := rate } :=
  hc.of_keeps rfl rfl rfl rfl rfl (Or.inr rfl) (hc.estimated.congr rfl rfl rfl) hc.age

/-- SET_PITCH writes a magnitude (R27, R184). -/
theorem ContextSound.setPitch {cfg : Config} {slots : List Slot} {D : Definition} {c : Context} {pitch : Word}
    (hc : ContextSound cfg slots D c) (sign : pitch.getLsbD 31 = false) :
    ContextSound cfg slots D { c with pitch := pitch } :=
  ⟨hc.slot, hc.definition, hc.window, hc.position, hc.estimated.congr rfl rfl rfl, sign, hc.age⟩

/-! ### Every effect keeps the invariant -/

section Effects

variable {s t : State}

/-- A closed window asks for nothing. -/
theorem WindowSound.of_closed {cfg : Config} {ctxs : List Context} {w : Window} (h : w.active = false) :
    WindowSound cfg ctxs w := fun ha => by simp [h] at ha

/-- The parts of the invariant for a state with one context rewritten in its place. -/
theorem sound_setContext {n : Nat} {c c' : Context} (h : BlockSound s.cfg s.slots s.mem s.ctxs)
    (hcounted : Counted s.slots s.ctxs) (hget : s.ctxs[n]? = some c) (hu : c'.inUse = c.inUse)
    (hslot : c'.slot = c.slot)
    (hsound : ∀ D, ContextSound s.cfg s.slots D c → ContextSound s.cfg s.slots D c') :
    BlockSound s.cfg s.slots s.mem (s.ctxs.set n c') ∧ Counted s.slots (s.ctxs.set n c') :=
  ⟨h.setContext fun hu' =>
      (h.context c (List.mem_of_getElem? hget) (hu ▸ hu')).imp fun D hD => hsound D hD,
    hcounted.setContext hget hu hslot⟩

/-- Outside a window a command may rewrite a context in its place and answer. -/
theorem wellFormed_setContext {n : Nat} {c c' : Context} (hs : s.wellFormed = true) (closed : s.sub.active = false)
    (hget : s.ctxs[n]? = some c) (hu : c'.inUse = c.inUse) (hslot : c'.slot = c.slot)
    (hsound : ∀ D, ContextSound s.cfg s.slots D c → ContextSound s.cfg s.slots D c') (a b : Word) :
    ((s.setContext n c').answering a b).wellFormed = true := by
  obtain ⟨h, hcounted, -⟩ := wellFormed_iff.1 hs
  obtain ⟨hblock, hcounted'⟩ := sound_setContext h hcounted hget hu hslot hsound
  exact wellFormed_iff.2 ⟨hblock, hcounted', .of_closed closed⟩

/-- BUILD_LOOKUP keeps slots, table memory and contexts sound (R105). -/
theorem sound_buildLookup {s' : State} {id : DefId} {k : Nat} {fresh : Bool}
    (h : BlockSound s.cfg s.slots s.mem s.ctxs) (hcounted : Counted s.slots s.ctxs)
    (acquired : acquireTable s .ext id = .ok (s', k, fresh)) :
    BlockSound s.cfg s'.slots s'.mem s.ctxs ∧ Counted s'.slots s.ctxs := by
  obtain ⟨hblock, -, sl, sl', hsl, hslots, -, -, hdec⟩ := acquireTable_sound h (fun hk => by cases hk) acquired
  refine ⟨hblock, ?_⟩
  rw [hslots]
  exact hcounted.setSlot hsl (BitVec.eq_of_toNat_eq hdec)

/-- INIT keeps slots, table memory and contexts sound (R201). -/
theorem sound_init {s' : State} {id : DefId} {n k : Nat} {fresh : Bool}
    (h : BlockSound s.cfg s.slots s.mem s.ctxs) (hcounted : Counted s.slots s.ctxs) (free : s.leastFreeContext n)
    (acquired : acquireTable s .dec id = .ok (s', k, fresh)) :
    BlockSound s.cfg s'.slots s'.mem (s.ctxs.set n (boundContext id k))
      ∧ Counted s'.slots (s.ctxs.set n (boundContext id k)) := by
  obtain ⟨⟨c, hc, hunused⟩, -⟩ := free
  obtain ⟨hblock, hD, sl, sl', hsl, hslots, hvalid, hid, hdec⟩ :=
    acquireTable_sound h (fun _ t x hx => decRefs_lt h hcounted hx hc hunused) acquired
  obtain ⟨D, hD⟩ := Option.isSome_iff_exists.1 hD
  have hlt := (List.getElem?_eq_some_iff.1 hsl).1
  have hk : k < 256 := by
    have := h.slots_length
    have := bounds_of_legal h.legal
    omega
  have hsl' : s'.slots[k]? = some sl' := by rw [hslots, List.getElem?_set_self hlt]
  have hbinds : ∀ t, binds t (boundContext id k) = (k == t) := fun t => by
    simp [binds, boundContext, resetAdaptive, Nat.mod_eq_of_lt hk]
  have hnone : ∀ t, binds t c = false := fun t => by simp [binds, hunused]
  refine ⟨hblock.setContext fun _ => ⟨D, boundContext_sound hk hsl' hvalid hid hD⟩, ?_⟩
  rw [hslots]
  refine hcounted.set hsl hc (fun t ht => ?_) ?_
  · rw [hbinds, hnone]
    simpa using Ne.symm ht
  · rw [hbinds, hnone]
    simpa [RefKind.contexts] using hdec

/-- What ReleaseIfUnused leaves of a valid slot (R109). -/
theorem releaseIfUnused_valid {sl : Slot} (hvalid : sl.valid = true) :
    (releaseIfUnused sl).defId = sl.defId ∧ (releaseIfUnused sl).decRefs = sl.decRefs
      ∧ (releaseIfUnused sl).valid = ((releaseIfUnused sl).extRefs != 0 || (releaseIfUnused sl).decRefs != 0)
      ∧ ((releaseIfUnused sl).valid = true ∨ sl.decRefs = 0) := by
  rcases releaseIfUnused_cases sl with ⟨hext, hdec, heq⟩ | ⟨hrefs, heq⟩ <;> rw [heq]
  · exact ⟨rfl, rfl, by simp [hext, hdec], Or.inr hdec⟩
  · refine ⟨rfl, rfl, ?_, Or.inl hvalid⟩
    simpa [hvalid, imp_iff_not_or] using hrefs

/-- A slot that ReleaseIfUnused makes free has no context bound, as its count says (R21, R109). -/
theorem sound_release {cfg : Config} {slots : List Slot} {mem : Memory} {ctxs : List Context} {k : Nat}
    {sl sl' : Slot} (h : BlockSound cfg slots mem ctxs) (hsl : slots[k]? = some sl) (hvalid : sl.valid = true)
    (hvalid' : sl'.valid = true) (hid : sl'.defId = sl.defId)
    (hcounted : Counted (slots.set k (releaseIfUnused sl')) ctxs) :
    BlockSound cfg (slots.set k (releaseIfUnused sl')) mem ctxs := by
  obtain ⟨hid', hdec, hrefs, hcase⟩ := releaseIfUnused_valid hvalid'
  refine h.setSlot hsl (hid'.trans hid) (fun _ => hvalid) hrefs (hcase.imp_right fun h0 d hd => ?_)
  have hcount := hcounted k _ (List.getElem?_set_self (List.getElem?_eq_some_iff.1 hsl).1)
  rw [hdec, h0] at hcount
  simpa using List.countP_eq_zero.1 hcount.symm d hd

/-- FREE_LOOKUP keeps slots, table memory and contexts sound (R107, R109). -/
theorem sound_freeLookup {k : Nat} {sl : Slot} (h : BlockSound s.cfg s.slots s.mem s.ctxs)
    (hcounted : Counted s.slots s.ctxs) (built : s.built k sl) :
    BlockSound s.cfg (s.slots.set k sl.dropExt) s.mem s.ctxs ∧ Counted (s.slots.set k sl.dropExt) s.ctxs := by
  obtain ⟨-, hsl, hvalid⟩ := built
  obtain ⟨-, hdec, -⟩ := releaseIfUnused_valid (sl := { sl with extRefs := sl.extRefs - 1 }) hvalid
  have hcounted' : Counted (s.slots.set k sl.dropExt) s.ctxs := hcounted.setSlot hsl hdec
  exact ⟨sound_release h hsl hvalid hvalid rfl hcounted', hcounted'⟩

/-- DESTROY keeps slots, table memory and contexts sound (R109, R203). -/
theorem sound_destroy {n : Nat} {c : Context} {sl : Slot} (h : BlockSound s.cfg s.slots s.mem s.ctxs)
    (hcounted : Counted s.slots s.ctxs) (hget : s.ctxs[n]? = some c) (hu : c.inUse = true)
    (hsl : s.slots[c.slot.toNat]? = some sl) (hvalid : sl.valid = true) :
    BlockSound s.cfg (s.slots.set c.slot.toNat sl.dropDec) s.mem (s.ctxs.set n { c with inUse := false })
      ∧ Counted (s.slots.set c.slot.toNat sl.dropDec) (s.ctxs.set n { c with inUse := false }) := by
  have hbound : binds c.slot.toNat c = true := by simp [binds, hu]
  have hpos : 0 < sl.decRefs.toNat := by
    rw [hcounted _ sl hsl]
    exact List.countP_pos_iff.2 ⟨c, List.mem_of_getElem? hget, hbound⟩
  have hpred : sl.dropDec.decRefs.toNat + 1 = sl.decRefs.toNat := by
    obtain ⟨-, hdec, -⟩ := releaseIfUnused_valid (sl := { sl with decRefs := sl.decRefs - 1 }) hvalid
    rw [Slot.dropDec, hdec]
    bv_omega
  have hcounted' : Counted (s.slots.set c.slot.toNat sl.dropDec) (s.ctxs.set n { c with inUse := false }) := by
    refine hcounted.set hsl hget (fun t ht => ?_) ?_
    · simp [binds, Ne.symm ht]
    · rw [hbound]
      simpa [binds] using hpred
  exact ⟨sound_release (h.setContext fun hu' => by cases hu') hsl hvalid hvalid rfl hcounted', hcounted'⟩

/-- A frame of the open window keeps slots, table memory and contexts sound (R205, R207). -/
theorem sound_sample {n : Nat} {c c' : Context} {hd : Handle} {s0 s1 : SampleBits} {evs : List Event}
    (h : BlockSound s.cfg s.slots s.mem s.ctxs) (hcounted : Counted s.slots s.ctxs) (hget : s.ctxs[n]? = some c)
    (framed : frame s hd s0 s1 c = .ok (c', evs)) :
    BlockSound s.cfg s.slots s.mem (s.ctxs.set n c') ∧ Counted s.slots (s.ctxs.set n c') := by
  obtain ⟨hu, hslot, -⟩ := frame_keeps framed
  refine sound_setContext h hcounted hget hu hslot fun D hD => ?_
  obtain ⟨sl, hsl, hvalid, hid⟩ := hD.slot
  obtain ⟨D', hD', htable⟩ := (h.slot _ sl hsl).table hvalid
  obtain rfl : D = D' := by simpa [hid, hD.definition] using hD'
  exact frame_sound (bounds_of_legal h.legal).1 htable hD framed

/-- A frame that leaves others to come keeps the window sound (R205). -/
theorem windowSound_sample {c c' : Context} (h : WindowSound s.cfg s.ctxs s.sub) (opened : s.sub.active = true)
    (hget : s.ctxs[s.sub.handle.toNat]? = some c) (hu : c'.inUse = c.inUse) (hrate : c'.rate = c.rate)
    (more : s.sub.remaining - 1 ≠ 0) :
    WindowSound s.cfg (s.ctxs.set s.sub.handle.toNat c')
      { s.sub with remaining := s.sub.remaining - 1, active := true } := fun _ => by
  obtain ⟨hremaining, hcount, d, hlt, hd, hdu, hdrate⟩ := h opened
  obtain rfl : c = d := by simpa [hget] using hd
  have hset := List.getElem?_set_self (a := c') (List.getElem?_eq_some_iff.1 hget).1
  exact ⟨by bv_omega, by bv_omega, c', hlt, hset, hu.trans hdu, hrate ▸ hdrate⟩

/-- Every effect of a command keeps the invariant of the block. -/
theorem Effect.wellFormed {i : Instr} (he : Effect s i t) (hs : s.wellFormed = true) : t.wellFormed = true := by
  obtain ⟨h, hcounted, hwindow⟩ := wellFormed_iff.1 hs
  cases he with
  | refuse | query => exact hs
  | buildLookup closed acquired =>
    obtain ⟨hcfg, -, hctxs, hsub, -⟩ := acquireTable_keeps acquired
    obtain ⟨hblock, hcounted'⟩ := sound_buildLookup h hcounted acquired
    rw [wellFormed_iff]
    simp only [answering_cfg, answering_slots, answering_mem, answering_ctxs, answering_sub, hcfg, hctxs, hsub]
    exact ⟨hblock, hcounted', .of_closed closed⟩
  | freeLookup closed built =>
    obtain ⟨hblock, hcounted'⟩ := sound_freeLookup h hcounted built
    exact wellFormed_iff.2 ⟨hblock, hcounted', .of_closed closed⟩
  | init closed free acquired =>
    obtain ⟨hcfg, -, hctxs, hsub, -⟩ := acquireTable_keeps acquired
    obtain ⟨hblock, hcounted'⟩ := sound_init h hcounted free acquired
    rw [wellFormed_iff]
    simp only [answering_cfg, answering_slots, answering_mem, answering_ctxs, answering_sub, setContext_cfg,
      setContext_slots, setContext_mem, setContext_ctxs, setContext_sub, hcfg, hctxs, hsub]
    exact ⟨hblock, hcounted', .of_closed closed⟩
  | @clear d c closed uses =>
    obtain ⟨-, hget, -⟩ := uses
    exact wellFormed_setContext (c' := resetAdaptive c) hs closed hget rfl rfl (fun _ => resetAdaptive_sound) _ _
  | @destroy d c closed uses =>
    obtain ⟨-, hget, hu⟩ := uses
    obtain ⟨D, hD⟩ := h.context c (List.mem_of_getElem? hget) hu
    obtain ⟨sl, hsl, hvalid, -⟩ := hD.slot
    rw [slotAt_of_getElem? hsl]
    obtain ⟨hblock, hcounted'⟩ := sound_destroy h hcounted hget hu hsl hvalid
    exact wellFormed_iff.2 ⟨hblock, hcounted', .of_closed closed⟩
  | @submitNone d c rate closed uses =>
    obtain ⟨-, hget, -⟩ := uses
    exact wellFormed_setContext (c' := { c with rate := rate }) hs closed hget rfl rfl
      (fun _ hc => hc.setRate rate) _ _
  | @submit d c count rate closed uses hrate hcount =>
    obtain ⟨hlt, hget, hu⟩ := uses
    obtain ⟨hblock, hcounted'⟩ :=
      sound_setContext h hcounted hget (c' := { c with rate := rate }) rfl rfl fun _ hc => hc.setRate rate
    have hpos : 1 ≤ count.toNat := by bv_omega
    exact wellFormed_iff.2 ⟨hblock, hcounted', fun _ => ⟨hpos, le_rfl, _, hlt,
      List.getElem?_set_self (List.getElem?_eq_some_iff.1 hget).1, hu, hrate⟩⟩
  | sample opened context framed more =>
    obtain ⟨-, hget⟩ := context?_eq_some.1 context
    obtain ⟨hu, -, hrate⟩ := frame_keeps framed
    obtain ⟨hblock, hcounted'⟩ := sound_sample h hcounted hget framed
    exact wellFormed_iff.2 ⟨hblock, hcounted', windowSound_sample hwindow opened hget hu hrate more⟩
  | sampleLast opened context framed last =>
    obtain ⟨-, hget⟩ := context?_eq_some.1 context
    obtain ⟨hblock, hcounted'⟩ := sound_sample h hcounted hget framed
    exact wellFormed_iff.2 ⟨hblock, hcounted', .of_closed rfl⟩
  | @setPitch d c pitch closed uses sign =>
    obtain ⟨-, hget, -⟩ := uses
    exact wellFormed_setContext (c' := { c with pitch := pitch }) hs closed hget rfl rfl
      (fun _ hc => hc.setPitch sign) _ _

end Effects

/-- Settles O55: the step takes a word, which no part of the invariant reads, and the command's effect keeps the rest. -/
theorem everyStepKeepsWellFormed : Obligations.EveryStepKeepsWellFormed := by
  intro s t hs h
  obtain ⟨w, rest, -, ht⟩ := step_next h
  have hs' : ({ s with port := rest } : State).wellFormed = true := hs
  rcases ht with rfl | ⟨i, -, hexec⟩
  · exact hs'
  · exact (exec_effect hexec).wellFormed hs'

end Sys2Proof.Machine

/-! ### What a frame keeps and emits -/

namespace Sys2Proof.Machine

/-- A frame keeps the definition and the pitch of its context (R63, R207). -/
theorem frame_keeps_defId_pitch {s : State} {h : Handle} {s0 s1 : SampleBits} {d d' : Context} {evs : List Event}
    (hf : frame s h s0 s1 d = .ok (d', evs)) : d'.defId = d.defId ∧ d'.pitch = d.pitch := by
  obtain ⟨D, -, -, hd'⟩ := frame_ok hf
  obtain ⟨-, hid, -, -, hpitch, -⟩ := frameTicked_keeps s D h s0 s1 d
  rcases hd' with rfl | ⟨b, hres⟩
  · exact ⟨hid, hpitch⟩
  · obtain ⟨w, r, -, -, rfl⟩ := resolve_eq_some hres
    obtain ⟨-, hid', -, -, hpitch', -⟩ :=
      track_keeps s.cfg.missPolicy r { frameTicked s D h s0 s1 d with bitstream := w }
    exact ⟨hid'.trans hid, hpitch'.trans hpitch⟩

/-- One channel's sample emits nothing, or one event of that channel (R128). -/
theorem zeroCross_event_channels (cfg : Config) (h : Handle) (c : ChannelId) (v : Int) (d : Context) :
    (zeroCross cfg h c v d).2.toList.map (·.channel) = []
      ∨ (zeroCross cfg h c v d).2.toList.map (·.channel) = [c] := by
  cases he : (zeroCross cfg h c v d).2 with
  | none => exact Or.inl rfl
  | some e => exact Or.inr (by simp [(zeroCross_event he).2])

/-- Every event of a frame is of its own context (R128). -/
theorem frameEvents_decoder {s : State} {D : Definition} {h : Handle} {s0 s1 : SampleBits} {d : Context} {e : Event}
    (he : e ∈ frameEvents s D h s0 s1 d) : e.decoder = h := by
  simp only [frameEvents, List.mem_append, Option.mem_toList] at he
  rcases he with hprimary | hsecondary
  · exact (zeroCross_event hprimary).1
  · exact (zeroCross_event hsecondary).1

/-- A frame emits at most one event of each channel, the primary's first (R207). -/
theorem frameEvents_channels (s : State) (D : Definition) (h : Handle) (s0 s1 : SampleBits) (d : Context) :
    (frameEvents s D h s0 s1 d).map (·.channel)
      ∈ ([[], [.primary], [.secondary], [.primary, .secondary]] : List (List ChannelId)) := by
  have hprimary := zeroCross_event_channels s.cfg h .primary (primarySample D s0 s1) d
  have hsecondary := zeroCross_event_channels s.cfg h .secondary (secondarySample D s0 s1)
    (zeroCross s.cfg h .primary (primarySample D s0 s1) d).1
  rw [frameEvents, List.map_append]
  rcases hprimary with hp | hp <;> rcases hsecondary with hs | hs <;> simp [hp, hs]

/-- Settles O51: no stage of a frame writes the binding, and each channel's sample emits at most one event. -/
theorem frameKeepsTheBinding : Obligations.FrameKeepsTheBinding := by
  intro s h s0 s1 d d' evs hf
  obtain ⟨hu, hslot, hrate⟩ := frame_keeps hf
  obtain ⟨hid, hpitch⟩ := frame_keeps_defId_pitch hf
  obtain ⟨D, -, rfl, -⟩ := frame_ok hf
  exact ⟨hu, hid, hslot, hrate, hpitch, fun e he => frameEvents_decoder he, frameEvents_channels s D h s0 s1 d⟩

end Sys2Proof.Machine

/-! ### The form of the table memory -/

namespace Sys2Proof.Machine

/-- A command writes the table memory entry by entry, if at all, so its canonical form stays. -/
theorem Effect.wf_mem {s t : State} {i : Instr} (he : Effect s i t) (hs : Memory.wf s.mem = true) :
    Memory.wf t.mem = true := by
  rcases he.mem with hmem | ⟨k, D, T, -, -, hmem⟩
  · rwa [hmem]
  · rw [hmem]
    exact wf_writeTable hs k D.W T

/-- Settles O58: taking the word does not touch the memory, and the command's effect keeps its form. -/
theorem everyStepKeepsMemoryForm : Obligations.EveryStepKeepsMemoryForm := by
  intro s t hs h
  obtain ⟨w, rest, -, ht⟩ := step_next h
  rcases ht with rfl | ⟨i, -, hexec⟩
  · exact hs
  · exact (exec_effect hexec).wf_mem hs

end Sys2Proof.Machine

/-! ### The context a command names -/

namespace Sys2Proof.Machine

/-- The command names context `n`: by its handle, or SAMPLE through the window and INIT as the least free one (R63, R234). -/
def State.names (s : State) (n : Nat) : Instr → Prop
  | .clear d | .destroy d | .submit d _ _ | .setPitch d _ => d.toNat = n
  | .sample _ _ => s.sub.handle.toNat = n
  | .init _ => s.leastFreeContext n
  | _ => False

theorem names_iff {s : State} {d : Handle} {i : Instr} :
    s.names d.toNat i ↔
      i = .clear d ∨ i = .destroy d ∨ (∃ n r, i = .submit d n r) ∨ (∃ p, i = .setPitch d p)
      ∨ ((∃ a b, i = .sample a b) ∧ s.sub.handle = d)
      ∨ ((∃ id, i = .init id) ∧ s.leastFreeContext d.toNat) := by
  cases i <;> simp [State.names, BitVec.toNat_inj]

/-- A command leaves the contexts as they were, or rewrites one that it names. -/
theorem Effect.ctxs {s t : State} {i : Instr} (h : Effect s i t) :
    t.ctxs = s.ctxs ∨ ∃ n c, s.names n i ∧ t.ctxs = s.ctxs.set n c := by
  cases h with
  | refuse | query | freeLookup => exact Or.inl rfl
  | buildLookup _ acquired =>
    obtain ⟨-, -, hctxs, -⟩ := acquireTable_keeps acquired
    exact Or.inl hctxs
  | init _ free acquired =>
    obtain ⟨-, -, hctxs, -⟩ := acquireTable_keeps acquired
    exact Or.inr ⟨_, _, free, by rw [answering_ctxs, setContext_ctxs, hctxs]⟩
  | clear | destroy | submitNone | submit | sample | sampleLast | setPitch => exact Or.inr ⟨_, _, rfl, rfl⟩

/-- Settles O59: the one context a command rewrites is the one it names. -/
theorem otherContextsAreUntouched : Obligations.OtherContextsAreUntouched := by
  intro i s t d h _
  rw [← names_iff]
  rcases (exec_effect h).ctxs with hctxs | ⟨n, c, hnames, hctxs⟩
  · exact Or.inr (by rw [hctxs])
  · by_cases hn : n = d.toNat
    · exact Or.inl (hn ▸ hnames)
    · exact Or.inr (by rw [hctxs, List.getElem?_set_ne hn])

end Sys2Proof.Machine

/-! ### Reading the fields of a command word (R70, R71) -/

namespace Sys2Proof

/-- The bits of the field of `n` bits at bit `lo`. -/
def fieldMask (lo n : Nat) : CommandWord := place lo (BitVec.allOnes n)

/-- The bits of the operand fields of a format: the lettered cells of R71, `H` included where it is used. -/
def operandMask : Format → CommandWord
  | .N => fieldMask 48 8
  | .D => fieldMask 0 8
  | .S => fieldMask 48 8 ||| fieldMask 24 24 ||| fieldMask 0 24
  | .X => fieldMask 16 16 ||| fieldMask 0 16
  | .P => fieldMask 48 8 ||| fieldMask 0 32
  | .I => fieldMask 48 8 ||| fieldMask 0 24
  | .G => fieldMask 48 8 ||| fieldMask 0 8

/-- Masking a field leaves the field, read and placed again. -/
theorem and_fieldMask (w : CommandWord) (lo n : Nat) :
    w &&& fieldMask lo n = place lo (w.extractLsb' lo n) := by
  unfold fieldMask place
  ext i hi
  by_cases hlo : i < lo
  · simp [hlo]
  · have hidx : lo + (i - lo) = i := by omega
    simp [hlo, hidx, hi, Bool.and_comm]

/-- Opcode, reserved cells and operand fields cover the word: a format leaves no bit out. -/
theorem format_covers_word (f : Format) :
    fieldMask 56 8 ||| reservedBits f ||| operandMask f = BitVec.allOnes 64 := by
  cases f <;> decide

/-- The opcode field is reserved in no format. -/
theorem place_opcode_and_reservedBits (b : BitVec 8) (f : Format) : place 56 b &&& reservedBits f = 0 :=
  place_and_clear _ _ _ (by cases f <;> decide)

theorem opcField_place (b : BitVec 8) : opcField (place 56 b) = b := extract_place_same 56 b (by decide)

theorem opcField_or (w w' : CommandWord) : opcField (w ||| w') = opcField w ||| opcField w' := extract_or w w' 56 8

theorem opcField_and_reservedBits (w : CommandWord) (f : Format) : opcField (w &&& reservedBits f) = 0 := by
  have hreserved : (reservedBits f).extractLsb' 56 8 = 0 := by cases f <;> decide
  rw [opcField, BitVec.extractLsb'_and, hreserved]
  exact BitVec.and_zero

/-- The operands the decoder reads, placed again, are the operand fields of the word (R71, R72). -/
theorem operandBits_assemble (op : Opcode) (w : CommandWord) :
    operandBits (assemble op w) = w &&& operandMask (formatOf op) := by
  cases op <;> simp only [formatOf, operandMask, BitVec.and_or_distrib_left, and_fieldMask] <;> rfl

theorem opcode_assemble (op : Opcode) (w : CommandWord) : (assemble op w).opcode = op := by
  cases op <;> rfl

/-- No operand reaches into the opcode field (R70). -/
theorem opcField_operandBits (i : Instr) : opcField (operandBits i) = 0 := by
  cases i <;>
    simp (disch := decide) [opcField, operandBits, extract_or, extract_place_disjoint]

/-- No operand reaches into a reserved cell of the command's format (R71). -/
theorem operandBits_and_reservedBits (i : Instr) :
    operandBits i &&& reservedBits (formatOf i.opcode) = 0 := by
  cases i <;>
    simp (disch := decide) [operandBits, Instr.opcode, formatOf, reservedBits, or_and, place_and_clear]

theorem opcField_encode (i : Instr) : opcField (encode i) = opcodeNumber i.opcode := by
  rw [encode, opcField_or, opcField_place, opcField_operandBits]
  exact BitVec.or_zero

/-- The operands read from a command's word are the command's own, at every value. -/
theorem assemble_encode (i : Instr) : assemble i.opcode (encode i) = i := by
  cases i <;>
    simp (disch := decide) [assemble, encode, operandBits, Instr.opcode, handleField, lowByteField, countField,
      low24Field, s0Field, s1Field, pitchField, extract_or, extract_place_same, extract_place_disjoint]

/-! ### The opcode map (R74) -/

theorem opcodeOf_eq_some_iff {b : BitVec 8} {op : Opcode} : opcodeOf b = some op ↔ b = opcodeNumber op := by
  constructor
  · intro h
    unfold opcodeOf at h
    apply BitVec.eq_of_toNat_eq
    split at h <;> cases h <;> assumption
  · rintro rfl
    exact opcodeOf_number op

theorem opcodeNumber_injective {op op' : Opcode} (h : opcodeNumber op = opcodeNumber op') : op = op' := by
  have hmap := congrArg opcodeOf h
  rw [opcodeOf_number, opcodeOf_number] at hmap
  exact Option.some.inj hmap

/-- The legal opcodes are 0x01 to 0x0F. -/
theorem opcodeNumber_range (op : Opcode) : opcodeNumber op ≠ 0 ∧ (opcodeNumber op).toNat < 0x10 := by
  cases op <;> decide

/-! ### Which words are commands, for the decoder and for the table (R75, R76) -/

/-- The word has the opcode, and every reserved bit of the opcode's format is 0 (R75). -/
structure IsCommand (op : Opcode) (w : CommandWord) : Prop where
  opcode : opcField w = opcodeNumber op
  reserved : w &&& reservedBits (formatOf op) = 0

theorem IsCommand.opcode_unique {op op' : Opcode} {w : CommandWord} (h : IsCommand op w) (h' : IsCommand op' w) :
    op = op' :=
  opcodeNumber_injective (h.opcode.symm.trans h'.opcode)

theorem isCommand_encode (i : Instr) : IsCommand i.opcode (encode i) where
  opcode := opcField_encode i
  reserved := by
    rw [encode, or_and, place_opcode_and_reservedBits, operandBits_and_reservedBits]
    exact BitVec.or_zero

/-- All the decoder does (R75): it accepts the words of the 15 opcodes and reads their operands. -/
theorem decode_eq_ok_iff {w : CommandWord} {i : Instr} :
    decode w = .ok i ↔ ∃ op, IsCommand op w ∧ assemble op w = i := by
  constructor
  · intro h
    unfold decode at h
    cases hop : opcodeOf (opcField w) with
    | none => simp [hop] at h
    | some op =>
      simp only [hop] at h
      split at h
      next hres => exact ⟨op, ⟨opcodeOf_eq_some_iff.mp hop, hres⟩, Except.ok.inj h⟩
      next => cases h
  · rintro ⟨op, ⟨hop, hres⟩, rfl⟩
    simp only [decode, opcodeOf_eq_some_iff.mpr hop, hres, if_true]

/-- The opcodes in the order of opcode_table.json. -/
def opcodes : List Opcode :=
  [.buildLookup, .freeLookup, .init, .clear, .destroy, .submit, .sample, .setPitch, .getPitch, .getPosition, .getAlive,
    .getSafe, .getResolution, .readTable, .readReg]

/-- The row that R71 and R74 give an opcode: the mask holds the opcode field and the reserved cells of the format. -/
def opcodeRow (op : Opcode) : OpcodeRow :=
  { mnemonic := Laws.EncodesToItsRow.mnemonic (assemble op 0)
    pattern := place 56 (opcodeNumber op)
    mask := fieldMask 56 8 ||| reservedBits (formatOf op) }

theorem mem_opcodes (op : Opcode) : op ∈ opcodes := by
  cases op <;> decide

theorem nodup_opcodes : opcodes.Nodup := by decide

/-- opcode_table.json has the row of every opcode and no other. -/
theorem opcodeTable_eq : opcodeTable = opcodes.map opcodeRow := by decide

/-- Match and mask say the same as the decoding procedure. -/
theorem admits_opcodeRow_iff {op : Opcode} {w : CommandWord} :
    (opcodeRow op).admits w = true ↔ IsCommand op w := by
  have hsplit : w &&& (opcodeRow op).mask = place 56 (opcField w) ||| w &&& reservedBits (formatOf op) := by
    rw [opcodeRow, BitVec.and_or_distrib_left, and_fieldMask, opcField]
  rw [OpcodeRow.admits, beq_iff_eq, hsplit]
  constructor
  · intro h
    have hop := congrArg opcField h
    have hres := congrArg (· &&& reservedBits (formatOf op)) h
    simp only [opcodeRow, opcField_or, opcField_place, opcField_and_reservedBits] at hop
    simp only [opcodeRow, or_and, place_opcode_and_reservedBits, BitVec.and_assoc, BitVec.and_self] at hres
    exact ⟨by simpa using hop, by simpa using hres⟩
  · rintro ⟨hop, hres⟩
    rw [hop, hres]
    simp [opcodeRow]

theorem CommandWord.wellFormed_iff {w : CommandWord} : CommandWord.wellFormed w = true ↔ ∃ op, IsCommand op w := by
  simp only [CommandWord.wellFormed, opcodeTable_eq, List.any_map, List.any_eq_true, Function.comp_apply,
    admits_opcodeRow_iff, mem_opcodes, true_and]

/-- The fields of a word that is a command are the whole word. -/
theorem IsCommand.encode_assemble {op : Opcode} {w : CommandWord} (h : IsCommand op w) : encode (assemble op w) = w :=
  calc encode (assemble op w)
      = place 56 (opcField w) ||| w &&& operandMask (formatOf op) := by
        rw [encode, opcode_assemble, operandBits_assemble, h.opcode]
    _ = w &&& fieldMask 56 8 ||| w &&& reservedBits (formatOf op) ||| w &&& operandMask (formatOf op) := by
        rw [and_fieldMask, h.reserved, opcField]; simp
    _ = w := by
        rw [← BitVec.and_or_distrib_left, ← BitVec.and_or_distrib_left, format_covers_word, BitVec.and_allOnes]

/-- Settles O1: the command's word is of its opcode, and each field reads back. -/
theorem decodeOfEncodeIsTheInstruction : Obligations.DecodeOfEncodeIsTheInstruction := fun i =>
  decode_eq_ok_iff.mpr ⟨i.opcode, isCommand_encode i, assemble_encode i⟩

/-- Settles O2: opcode, reserved cells and operand fields are all the bits there are. -/
theorem encodeOfDecodeIsTheWord : Obligations.EncodeOfDecodeIsTheWord := by
  intro w i h
  obtain ⟨op, hw, rfl⟩ := decode_eq_ok_iff.mp h
  exact hw.encode_assemble

/-- Settles O3: decoder and table both ask for an opcode of the map with its reserved bits 0. -/
theorem decoderAcceptsExactlyTheOpcodeTable : Obligations.DecoderAcceptsExactlyTheOpcodeTable := by
  intro w
  rw [CommandWord.wellFormed_iff]
  constructor
  · rintro ⟨i, h⟩
    obtain ⟨op, hw, -⟩ := decode_eq_ok_iff.mp h
    exact ⟨op, hw⟩
  · rintro ⟨op, hw⟩
    exact ⟨assemble op w, decode_eq_ok_iff.mpr ⟨op, hw, rfl⟩⟩

/-- Settles O4: a row that admits the word is the row of the word's opcode, and each opcode has one row. -/
theorem opcodeTableIsUnambiguous : Obligations.OpcodeTableIsUnambiguous := by
  intro w
  have hnodup : (opcodes.filter ((fun r => r.admits w) ∘ opcodeRow)).Nodup := nodup_opcodes.filter _
  rw [opcodeTable_eq, List.filter_map, List.length_map, ← List.toFinset_card_of_nodup hnodup, Finset.card_le_one]
  intro op hop op' hop'
  simp only [List.mem_toFinset, List.mem_filter, Function.comp_apply, admits_opcodeRow_iff] at hop hop'
  exact hop.2.opcode_unique hop'.2

end Sys2Proof

/-! ### A word that is no command (R76) -/

namespace Sys2Proof.Machine

/-- A word of no row of the table is taken off the port and answered E_ILLEGAL; the window is not asked. -/
theorem step_of_not_wellFormed {s : State} {w : CommandWord} {rest : List CommandWord} (hport : s.port = w :: rest)
    (hw : CommandWord.wellFormed w = false) :
    step s = .next (({ s with port := rest } : State).refusing .illegal) := by
  have hfetch : fetch s = some (w, { s with port := rest }) := by simp only [fetch, hport]
  cases hd : decode w with
  | error e => simp only [step, hfetch, hd, raise_eq]
  | ok i =>
    have := (decoderAcceptsExactlyTheOpcodeTable w).mp ⟨i, hd⟩
    simp [hw] at this

/-- An opcode outside the map makes the word no command, whatever its other bits. -/
theorem not_wellFormed_of_opcField {w : CommandWord} (h : opcField w = 0 ∨ 0x10 ≤ (opcField w).toNat) :
    CommandWord.wellFormed w = false := by
  rw [← Bool.not_eq_true, CommandWord.wellFormed_iff]
  rintro ⟨op, hop, -⟩
  obtain ⟨hne, hlt⟩ := opcodeNumber_range op
  rw [hop] at h
  rcases h with hzero | hlarge
  · exact hne hzero
  · omega

/-- Settles O7: each of the three conditions leaves the word in no row of the table. -/
theorem illegalWordRespondsIllegal : Obligations.IllegalWordRespondsIllegal := by
  intro s w rest hport h
  refine step_of_not_wellFormed hport ?_
  rcases h with hzero | hlarge | hw
  · exact not_wellFormed_of_opcField (.inl hzero)
  · exact not_wellFormed_of_opcField (.inr hlarge)
  · exact hw

/-- Settles O5: the decoder evaluates to the command of each legal word; the other two are of no row of the table. -/
theorem exampleWordsDecode : Obligations.ExampleWordsDecode :=
  ⟨by decide, by decide, by decide, by decide, by decide, by decide, by decide, by decide, by decide, by decide,
    by decide, fun _ _ hport => step_of_not_wellFormed hport (by decide),
    fun _ _ hport => step_of_not_wellFormed hport (by decide)⟩

end Sys2Proof.Machine

/-! ### Acquiring a table, reading an entry, dropping a reference (R105 to R109) -/

namespace Sys2Proof.Machine

section Commands

variable {s s' : State} {id : DefId} {D : Definition}

/-- A reference of BUILD_LOOKUP where the count has room (R106). -/
theorem addReference_ext {sl : Slot} (h : sl.extRefs ≠ 0xFFFF) :
    addReference .ext sl = .ok { sl with extRefs := sl.extRefs + 1 } := if_neg h

theorem addReference_ext_full {sl : Slot} (h : sl.extRefs = 0xFFFF) : addReference .ext sl = .error .resource :=
  if_pos h

/-! #### What `acquireTable` raises, cause by cause (R106, R223) -/

theorem acquireTable_unknown (kind : RefKind) (hD : s.cfg.definition? id = none) :
    acquireTable s kind id = .error .unknownDef := by
  rw [acquireTable, hD]

theorem acquireTable_fieldsIllegal (kind : RefKind) (hD : s.cfg.definition? id = some D) (hlacks : s.lacks id)
    (hlegal : fieldsLegal s.cfg D = false) : acquireTable s kind id = .error .badDefinition := by
  rw [acquireTable, hD]
  simp [builtSlot?_eq_none.2 hlacks, hlegal]

theorem acquireTable_noSlot (kind : RefKind) (hD : s.cfg.definition? id = some D) (hlacks : s.lacks id)
    (hlegal : fieldsLegal s.cfg D = true) (hfull : ∀ sl ∈ s.slots, sl.valid = true) :
    acquireTable s kind id = .error .resource := by
  rw [acquireTable, hD]
  simp [builtSlot?_eq_none.2 hlacks, hlegal, freeSlot?_eq_none.2 hfull]

theorem acquireTable_buildFails (kind : RefKind) (hD : s.cfg.definition? id = some D) (hlacks : s.lacks id)
    (hlegal : fieldsLegal s.cfg D = true) {t : Nat} (hfree : s.leastFreeSlot t) (hbuild : build D = none) :
    acquireTable s kind id = .error .badDefinition := by
  rw [acquireTable, hD]
  simp [builtSlot?_eq_none.2 hlacks, hlegal, freeSlot?_eq_some.2 hfree, hbuild]

/-! #### BUILD_LOOKUP and INIT from what `acquireTable` says (R105, R201) -/

theorem exec_buildLookup_of_error {e : Status} (closed : s.sub.active = false)
    (h : acquireTable s .ext id = .error e) : exec (.buildLookup id) s = .next (s.refusing e) := by
  show outsideWindow s _ = _
  rw [outsideWindow_closed closed, h]
  rfl

theorem exec_buildLookup_of_ok {t : Nat} {fresh : Bool} (closed : s.sub.active = false)
    (h : acquireTable s .ext id = .ok (s', t, fresh)) :
    exec (.buildLookup id) s = .next (s'.answering (BitVec.ofNat 32 t) (bit32 fresh)) := by
  show outsideWindow s _ = _
  rw [outsideWindow_closed closed, h]
  rfl

theorem exec_init_of_unknown (closed : s.sub.active = false) (hD : s.cfg.definition? id = none) :
    exec (.init id) s = .next (s.refusing .unknownDef) := by
  show outsideWindow s _ = _
  rw [outsideWindow_closed closed, hD]
  rfl

theorem exec_init_of_noContext (closed : s.sub.active = false) (hD : s.cfg.definition? id = some D)
    (hfull : ∀ c ∈ s.ctxs, c.inUse = true) : exec (.init id) s = .next (s.refusing .resource) := by
  show outsideWindow s _ = _
  rw [outsideWindow_closed closed, hD, freeContext?_eq_none.2 hfull]
  rfl

theorem exec_init_of_error {d : Nat} {e : Status} (closed : s.sub.active = false)
    (hD : s.cfg.definition? id = some D) (hfree : s.leastFreeContext d)
    (h : acquireTable s .dec id = .error e) : exec (.init id) s = .next (s.refusing e) := by
  show outsideWindow s _ = _
  rw [outsideWindow_closed closed, hD, freeContext?_eq_some.2 hfree, h]
  rfl

/-- BUILD_LOOKUP of a definition whose table has to be built (R105, R106). -/
theorem exec_buildLookup_fresh {T : List Int} {t : Nat} (closed : s.sub.active = false)
    (hD : s.cfg.definition? id = some D) (hlacks : s.lacks id) (hlegal : fieldsLegal s.cfg D = true)
    (hbuild : build D = some T) (hfree : s.leastFreeSlot t) :
    exec (.buildLookup id) s =
      .next (((s.setMem (writeTable s.cfg s.mem t D.W T)).setSlot t (freshSlot .ext id)).answering
        (BitVec.ofNat 32 t) 1) :=
  exec_buildLookup_of_ok closed (acquireTable_fresh hD hlacks hlegal hfree hbuild)

/-! #### READ_TABLE (R108) -/

theorem exec_readTable_of_lt {t : Handle} {index : Field24} {sl : Slot} (closed : s.sub.active = false)
    (hsl : s.built t.toNat sl) (hD : s.cfg.definition? sl.defId = some D) (hW : D.W ≤ s.cfg.wmax)
    (hindex : index.toNat < 2 ^ D.W) :
    exec (.readTable t index) s = .next (s.answering (s.entry t.toNat index.toNat) 0) := by
  obtain ⟨hntab, -, -⟩ := id hsl
  have hread : s.memRead t.toNat index.toNat = some (s.entry t.toNat index.toNat) :=
    memRead_eq_some.2 ⟨hntab, hindex.trans_le (Nat.pow_le_pow_right (by decide) hW), rfl⟩
  show outsideWindow s _ = _
  rw [outsideWindow_closed closed, withBuiltSlot_built hsl, withDefinition_some hD, if_neg (by omega), hread]
  rfl

theorem exec_readTable_of_ge {t : Handle} {index : Field24} {sl : Slot} (closed : s.sub.active = false)
    (hsl : s.built t.toNat sl) (hD : s.cfg.definition? sl.defId = some D) (hindex : 2 ^ D.W ≤ index.toNat) :
    exec (.readTable t index) s = .next (s.refusing .invalidParam) := by
  show outsideWindow s _ = _
  rw [outsideWindow_closed closed, withBuiltSlot_built hsl, withDefinition_some hD, if_pos hindex, raise_eq]

theorem exec_readTable_absent {t : Handle} {index : Field24} (closed : s.sub.active = false)
    (h : s.cfg.ntab ≤ t.toNat ∨ ∃ sl, s.slots[t.toNat]? = some sl ∧ sl.valid = false) :
    exec (.readTable t index) s = .next (s.refusing .badHandle) := by
  show outsideWindow s _ = _
  rw [outsideWindow_closed closed, withBuiltSlot_absent h]

/-! #### FREE_LOOKUP (R107) -/

theorem exec_freeLookup_noReference {t : Handle} {sl : Slot} (closed : s.sub.active = false)
    (hsl : s.built t.toNat sl) (hrefs : sl.extRefs = 0) :
    exec (.freeLookup t) s = .next (s.refusing .badHandle) := by
  show outsideWindow s _ = _
  rw [outsideWindow_closed closed, withBuiltSlot_built hsl, if_pos hrefs, raise_eq]

theorem exec_freeLookup_built {t : Handle} {sl : Slot} (closed : s.sub.active = false)
    (hsl : s.built t.toNat sl) (hrefs : sl.extRefs ≠ 0) :
    exec (.freeLookup t) s = .next ((s.setSlot t.toNat sl.dropExt).answering (bit32 sl.dropExt.valid) 0) := by
  show outsideWindow s _ = _
  rw [outsideWindow_closed closed, withBuiltSlot_built hsl, if_neg hrefs, answer_eq]
  rfl

theorem exec_freeLookup_absent {t : Handle} (closed : s.sub.active = false)
    (h : s.cfg.ntab ≤ t.toNat ∨ ∃ sl, s.slots[t.toNat]? = some sl ∧ sl.valid = false) :
    exec (.freeLookup t) s = .next (s.refusing .badHandle) := by
  show outsideWindow s _ = _
  rw [outsideWindow_closed closed, withBuiltSlot_absent h]

/-- The last reference of a slot releases it (R109). -/
theorem dropExt_last {sl : Slot} (hext : sl.extRefs = 1) (hdec : sl.decRefs = 0) :
    sl.dropExt = { sl with extRefs := 0, valid := false } := by
  simp [Slot.dropExt, releaseIfUnused, hext, hdec]

/-- A slot with another reference keeps its table (R109). -/
theorem dropExt_notLast {sl : Slot} (h : ¬ (sl.extRefs = 1 ∧ sl.decRefs = 0)) :
    sl.dropExt = { sl with extRefs := sl.extRefs - 1 } := by
  refine if_neg fun ⟨hext, hdec⟩ => h ⟨?_, hdec⟩
  bv_omega

end Commands

/-! #### The statements -/

/-- Settles O25: the slot that holds the id gains one reference if its count has room. -/
theorem buildLookupSharesABuiltTable : Obligations.BuildLookupSharesABuiltTable := by
  intro s id D t sl closed hD hholds
  constructor
  · intro hroom
    exact exec_buildLookup_of_ok closed (by rw [acquireTable_shared hD hholds, addReference_ext hroom])
  · intro hfull
    exact exec_buildLookup_of_error closed (by rw [acquireTable_shared hD hholds, addReference_ext_full hfull])

/-- Settles O26: the memory is the one with the table written to the slot. -/
theorem buildLookupBuildsInTheLeastFreeSlot : Obligations.BuildLookupBuildsInTheLeastFreeSlot := by
  intro s id D T t closed hwf hD hlacks hlegal hbuild hfree
  exact ⟨writeTable s.cfg s.mem t D.W T, exec_buildLookup_fresh closed hD hlacks hlegal hbuild hfree,
    fun i hi => read_writeTable hwf hi, fun k hk => read_writeTable_other hk⟩

/-- Settles O29: after its context check INIT raises what BUILD_LOOKUP raises, since both ask `acquireTable`. -/
theorem buildAndInitRaiseInOrder : Obligations.BuildAndInitRaiseInOrder := by
  intro s id closed
  refine ⟨fun hD => ⟨exec_buildLookup_of_error closed (acquireTable_unknown _ hD),
    exec_init_of_unknown closed hD⟩, fun D hD => ⟨exec_init_of_noContext closed hD, fun hlacks => ?_⟩⟩
  have hboth : ∀ e, (∀ kind, acquireTable s kind id = .error e) →
      exec (.buildLookup id) s = .next (s.refusing e)
        ∧ ∀ d, s.leastFreeContext d → exec (.init id) s = .next (s.refusing e) := fun e he =>
    ⟨exec_buildLookup_of_error closed (he _), fun _ hfree => exec_init_of_error closed hD hfree (he _)⟩
  refine ⟨fun hlegal => ?_, fun hlegal hfull => ?_, fun hlegal hbuild ⟨t, hfree⟩ => ?_⟩
  · exact hboth _ fun kind => acquireTable_fieldsIllegal kind hD hlacks hlegal
  · exact hboth _ fun kind => acquireTable_noSlot kind hD hlacks hlegal hfull
  · exact hboth _ fun kind => acquireTable_buildFails kind hD hlacks hlegal hfree hbuild

/-- Settles O18: the slot check, then the bound of the bound definition, then the entry. -/
theorem readTableAnswersTheEntry : Obligations.ReadTableAnswersTheEntry := fun _ _ _ closed =>
  ⟨fun _ _ hsl hD hW => ⟨exec_readTable_of_lt closed hsl hD hW, exec_readTable_of_ge closed hsl hD⟩,
    exec_readTable_absent closed⟩

/-- Settles O30: the slot of the build is valid with its id, and its entries read as the table's. -/
theorem builtTableReadsBack : Obligations.BuiltTableReadsBack := by
  intro s s' id D T t index hwf hslots closed hD hlacks hlegal hbuild hfree hexec hindex
  rw [exec_buildLookup_fresh closed hD hlacks hlegal hbuild hfree] at hexec
  cases hexec
  obtain ⟨⟨sl, hsl, -⟩, -⟩ := hfree
  have hlt : t.toNat < s.slots.length := (List.getElem?_eq_some_iff.1 hsl).1
  have hread := read_writeTable hwf (cfg := s.cfg) (t := t.toNat) (T := T) hindex
  rw [← hread]
  exact exec_readTable_of_lt (sl := freshSlot .ext id) closed
    ⟨hslots ▸ hlt, List.getElem?_set_self hlt, rfl⟩ hD (W_bounds_of_fieldsLegal hlegal).2 hindex

/-- Settles O24: the one reference dropped is the last one or it is not. -/
theorem freeLookupDropsOneReference : Obligations.FreeLookupDropsOneReference := by
  intro s t closed
  refine ⟨fun sl hsl => ⟨exec_freeLookup_noReference closed hsl, fun hrefs hmore => ?_, fun hext hdec => ?_⟩,
    exec_freeLookup_absent closed⟩
  · obtain ⟨-, -, hvalid⟩ := id hsl
    rw [exec_freeLookup_built closed hsl hrefs, dropExt_notLast hmore, hvalid]
    rfl
  · rw [exec_freeLookup_built closed hsl (by simp [hext]), dropExt_last hext hdec]
    rfl

end Sys2Proof.Machine

/-! ### The LFSR (R100, R101) -/

namespace Sys2Proof.Machine

/-! #### Parity (R10) -/

@[simp] theorem onesBelow_zero_right (n : Nat) : onesBelow n 0 = 0 := by
  induction n with
  | zero => rfl
  | succ n ih => simp [onesBelow, ih]

/-- Counting past the highest 1 bit counts no more. -/
theorem onesBelow_congr {n m x : Nat} (hn : x < 2 ^ n) (hm : x < 2 ^ m) : onesBelow n x = onesBelow m x := by
  induction n generalizing m x with
  | zero => simp [Nat.lt_one_iff.1 hn]
  | succ n ih =>
    cases m with
    | zero => simp [Nat.lt_one_iff.1 hm]
    | succ m => simp only [onesBelow, ih (show x / 2 < 2 ^ n by omega) (show x / 2 < 2 ^ m by omega)]

/-- Parity as a truth value. -/
def oddParity (x : Nat) : Bool := decide (parity x = 1)

theorem toNat_oddParity (x : Nat) : (oddParity x).toNat = parity x := by
  have hlt : parity x < 2 := Nat.mod_lt _ (by decide)
  by_cases h : parity x = 1
  · simp [oddParity, h]
  · simp [oddParity, show parity x = 0 by omega]

/-- Bit 0 apart, the parity is that of the bits above it. -/
theorem oddParity_eq_xor (x : Nat) : oddParity x = (x.testBit 0 ^^ oddParity (x / 2)) := by
  have hhalf : parity (x / 2) = onesBelow x.log2 (x / 2) % 2 := by
    have hlt : x / 2 < 2 ^ x.log2 := by
      have := Nat.lt_log2_self (n := x)
      omega
    rw [parity, onesBelow_congr Nat.lt_log2_self hlt]
  have hsum : parity x = (x % 2 + parity (x / 2)) % 2 := by
    rw [hhalf, Nat.add_mod_mod]
    rfl
  have hlt : parity (x / 2) < 2 := Nat.mod_lt _ (by decide)
  rw [Nat.testBit_zero, oddParity, oddParity, hsum]
  rcases Nat.mod_two_eq_zero_or_one x with h0 | h0 <;>
    rcases (show parity (x / 2) = 0 ∨ parity (x / 2) = 1 by omega) with h1 | h1 <;> simp [h0, h1]

/-! #### `fwd` and `rev` as shifts of the bit window -/

/-- The parity of the tapped bits above bit 0, given the bits moved one place down, as `rev` has them (R101). -/
def tapped (D : Definition) (low : Nat) : Bool := oddParity (low &&& (D.taps >>> 1) &&& mask (D.W - 1))

/-- The bit that `fwd` shifts in at bit `W-1` (R100). -/
def feedback (D : Definition) (x : Nat) : Bool := x.testBit 0 ^^ tapped D (x >>> 1)

/-- The bit that `rev` shifts in at bit 0 (R101). -/
def recovered (D : Definition) (x : Nat) : Bool := x.testBit (D.W - 1) ^^ tapped D x

/-- `tapped` reads the `W-1` low bits only. -/
theorem tapped_congr {D : Definition} {a b : Nat} (h : ∀ k < D.W - 1, a.testBit k = b.testBit k) :
    tapped D a = tapped D b := by
  refine congrArg oddParity (Nat.eq_of_testBit_eq fun k => ?_)
  by_cases hk : k < D.W - 1
  · simp [mask, h k hk]
  · simp [mask, hk]

/-- Bit 0 is always tapped (R100). -/
theorem oddParity_taps {D : Definition} (hW : 1 ≤ D.W) (x : Nat) :
    oddParity (x &&& ((D.taps ||| 1) &&& mask D.W)) = feedback D x := by
  have hlow : (x &&& ((D.taps ||| 1) &&& mask D.W)).testBit 0 = x.testBit 0 := by
    simp [mask, show 0 < D.W by omega]
  have hhigh : (x &&& ((D.taps ||| 1) &&& mask D.W)) / 2 = x >>> 1 &&& (D.taps >>> 1) &&& mask (D.W - 1) := by
    refine Nat.eq_of_testBit_eq fun k => ?_
    have hk : k + 1 < D.W ↔ k < D.W - 1 := by omega
    have hone : Nat.testBit 1 (k + 1) = false := by simp [Nat.testBit_add_one]
    simp [← Nat.testBit_add_one, mask, hk, Nat.add_comm 1 k, hone, Bool.and_left_comm]
  rw [oddParity_eq_xor, hlow, hhigh, feedback, tapped]

theorem fwd_eq_shiftIn {D : Definition} (hW : 1 ≤ D.W) (x : Nat) : fwd D x = shiftIn D true (feedback D x) x := by
  rw [fwd, ← toNat_oddParity, oddParity_taps hW]
  rfl

theorem rev_eq_shiftIn {D : Definition} (hW : 1 ≤ D.W) (x : Nat) : rev D x = shiftIn D false (recovered D x) x := by
  have hlow : (x &&& mask (D.W - 1)) <<< 1 = x <<< 1 &&& mask D.W := by
    refine Nat.eq_of_testBit_eq fun k => ?_
    cases k with
    | zero => simp
    | succ k => simp [mask, show k + 1 < D.W ↔ k < D.W - 1 by omega]
  have htapped : oddParity (x &&& mask (D.W - 1) &&& (D.taps >>> 1) &&& mask (D.W - 1)) = tapped D x :=
    tapped_congr (D := D) fun k hk => by simp [mask, hk]
  have hbit : (x >>> (D.W - 1) &&& 1) ^^^ (tapped D x).toNat = (recovered D x).toNat := by
    rw [Nat.and_one_is_mod, Nat.shiftRight_eq_div_pow, ← Nat.toNat_testBit, recovered]
    cases x.testBit (D.W - 1) <;> cases tapped D x <;> rfl
  rw [rev, hlow, ← toNat_oddParity, htapped, hbit]
  rfl

/-- A `W`-bit state has no bit at `W` or above. -/
theorem testBit_of_width_le {W x k : Nat} (hx : x < 2 ^ W) (hk : W ≤ k) : x.testBit k = false :=
  Nat.testBit_lt_two_pow (hx.trans_le (Nat.pow_le_pow_right (by decide) hk))

section Shift

variable {D : Definition} {x : Nat} (hW : 1 ≤ D.W)
include hW

theorem testBit_rev (k : Nat) :
    (rev D x).testBit k = if k = 0 then recovered D x else (decide (k < D.W) && x.testBit (k - 1)) := by
  rw [rev_eq_shiftIn hW, testBit_shiftIn_reverse]

/-- The tapped bits of `rev D x` are those of `x`, so `fwd` feeds bit `W-1` back (R101). -/
theorem feedback_rev : feedback D (rev D x) = x.testBit (D.W - 1) := by
  have htapped : tapped D (rev D x >>> 1) = tapped D x := tapped_congr fun k hk => by
    rw [Nat.testBit_shiftRight, testBit_rev hW, if_neg (by omega)]
    simp [show 1 + k < D.W by omega]
  rw [feedback, testBit_rev hW, if_pos rfl, htapped, recovered, Bool.xor_assoc, Bool.xor_self, Bool.xor_false]

variable (hx : x < 2 ^ D.W)
include hx

theorem fwd_lt : fwd D x < 2 ^ D.W := fwd_eq_shiftIn hW x ▸ shiftIn_lt hW hx

theorem rev_lt : rev D x < 2 ^ D.W := rev_eq_shiftIn hW x ▸ shiftIn_lt hW hx

theorem testBit_fwd (k : Nat) :
    (fwd D x).testBit k = if k = D.W - 1 then feedback D x else x.testBit (k + 1) := by
  rw [fwd_eq_shiftIn hW, testBit_shiftIn_forward hW hx]

/-- The tapped bits of `fwd D x` are those of `x`, so `rev` recovers bit 0 (R101). -/
theorem recovered_fwd : recovered D (fwd D x) = x.testBit 0 := by
  have htapped : tapped D (fwd D x) = tapped D (x >>> 1) := tapped_congr fun k hk => by
    rw [testBit_fwd hW hx, if_neg (by omega), Nat.testBit_shiftRight, Nat.add_comm]
  rw [recovered, testBit_fwd hW hx, if_pos rfl, htapped, feedback, Bool.xor_assoc, Bool.xor_self, Bool.xor_false]

theorem rev_fwd : rev D (fwd D x) = x := by
  refine Nat.eq_of_testBit_eq fun k => ?_
  rw [testBit_rev hW]
  split
  · next hk => rw [hk, recovered_fwd hW hx]
  · next hk =>
    rw [testBit_fwd hW hx, Nat.sub_add_cancel (Nat.one_le_iff_ne_zero.2 hk)]
    by_cases hlt : k < D.W
    · simp [hlt, show k - 1 ≠ D.W - 1 by omega]
    · simp [hlt, testBit_of_width_le hx (Nat.not_lt.1 hlt)]

theorem fwd_rev : fwd D (rev D x) = x := by
  refine Nat.eq_of_testBit_eq fun k => ?_
  rw [testBit_fwd hW (rev_lt hW hx)]
  split
  · next hk => rw [hk, feedback_rev hW]
  · next hk =>
    rw [testBit_rev hW, if_neg (Nat.succ_ne_zero k), Nat.add_sub_cancel]
    by_cases hlt : k + 1 < D.W
    · simp [hlt]
    · simp [testBit_of_width_le hx (show D.W ≤ k by omega)]

end Shift

/-- The all-zero state is its own successor (R101). -/
theorem fwd_zero (D : Definition) : fwd D 0 = 0 := by
  have hparity : parity 0 = 0 := rfl
  simp [fwd, hparity]

/-- Only the all-zero state steps to itself (R101). -/
theorem fwd_ne_zero {D : Definition} {x : Nat} (hW : 1 ≤ D.W) (hx : x < 2 ^ D.W) (h0 : x ≠ 0) : fwd D x ≠ 0 := by
  intro h
  refine h0 ?_
  calc x = rev D (fwd D x) := (rev_fwd hW hx).symm
    _ = rev D (fwd D 0) := by rw [h, fwd_zero]
    _ = 0 := rev_fwd hW (Nat.two_pow_pos _)

/-- Every state of the LFSR of a legal definition is a `W`-bit state other than 0 (R101, R104). -/
theorem lfsrState_range {cfg : Config} {D : Definition} (hlegal : fieldsLegal cfg D = true) (n : Nat) :
    lfsrState D n ≠ 0 ∧ lfsrState D n < 2 ^ D.W := by
  obtain ⟨hW, -, hseed, hmask, -⟩ := fieldsLegal_iff.1 hlegal
  induction n with
  | zero =>
    have hpos := Nat.two_pow_pos D.W
    unfold mask at hmask
    exact ⟨Nat.one_le_iff_ne_zero.1 hseed, by rw [lfsrState]; omega⟩
  | succ n ih =>
    obtain ⟨hne, hlt⟩ := ih
    exact ⟨fwd_ne_zero (by omega) hlt hne, fwd_lt (by omega) hlt⟩

/-- Settles O32: each way the bits only move one place, and the bit shifted in is the one shifted out. -/
theorem lfsrStepIsABijection : Obligations.LfsrStepIsABijection := fun _ _ hW hx =>
  ⟨fwd_lt hW hx, rev_lt hW hx, rev_fwd hW hx, fwd_rev hW hx⟩

/-- Settles O33, by induction on the number of steps. -/
theorem lfsrNeverReachesZero : Obligations.LfsrNeverReachesZero := fun _ D hlegal =>
  ⟨fwd_zero D, lfsrState_range hlegal⟩

/-! ### The build (R102, R103) -/

/-- The table after the entries of the first `n` steps are written, later steps over earlier ones. -/
def positionsUpTo (D : Definition) : Nat → List Int
  | 0 => List.replicate (2 ^ D.W) (-1)
  | n + 1 => (positionsUpTo D n).set (lfsrState D n) (n : Int)

/-- No state repeats within the first `n` steps. -/
def DistinctStates (D : Definition) (n : Nat) : Prop := ∀ i j, i < j → j < n → lfsrState D i ≠ lfsrState D j

theorem distinctStates_succ {D : Definition} {n : Nat} :
    DistinctStates D (n + 1) ↔ DistinctStates D n ∧ ∀ i < n, lfsrState D i ≠ lfsrState D n := by
  constructor
  · exact fun h => ⟨fun i j hij hj => h i j hij (by omega), fun i hi => h i n hi (by omega)⟩
  · rintro ⟨hold, hnew⟩ i j hij hj
    rcases Nat.lt_succ_iff_lt_or_eq.1 hj with hlt | rfl
    · exact hold i j hij hlt
    · exact hnew i hij

@[simp] theorem length_positionsUpTo (D : Definition) (n : Nat) : (positionsUpTo D n).length = 2 ^ D.W := by
  induction n with
  | zero => exact List.length_replicate
  | succ n ih => rw [positionsUpTo, List.length_set, ih]

/-- What is listed other than the sentinel is a step, at its state. -/
theorem step_of_positionsUpTo {D : Definition} {n i : Nat} {v : Int} (h : (positionsUpTo D n)[i]? = some v)
    (hv : v ≠ -1) : ∃ m < n, v = (m : Int) ∧ lfsrState D m = i := by
  induction n with
  | zero => exact absurd (List.eq_of_mem_replicate (List.mem_of_getElem? h)) hv
  | succ n ih =>
    rcases getElem?_set_cases h with ⟨rfl, rfl⟩ | ⟨-, hold⟩
    · exact ⟨n, by omega, rfl, rfl⟩
    · obtain ⟨m, hm, hmv⟩ := ih hold
      exact ⟨m, by omega, hmv⟩

section Build

variable {D : Definition} (hrange : ∀ n, lfsrState D n < 2 ^ D.W)
include hrange

/-- With no repeat, a step's state has the step for its entry. -/
theorem positionsUpTo_state {n m : Nat} (hdistinct : DistinctStates D n) (hm : m < n) :
    (positionsUpTo D n)[lfsrState D m]? = some (m : Int) := by
  induction n with
  | zero => omega
  | succ n ih =>
    obtain ⟨hold, hnew⟩ := distinctStates_succ.1 hdistinct
    rcases Nat.lt_succ_iff_lt_or_eq.1 hm with hlt | rfl
    · rw [positionsUpTo, List.getElem?_set_ne (hnew m hlt).symm]
      exact ih hold hlt
    · exact List.getElem?_set_self (by rw [length_positionsUpTo]; exact hrange m)

/-- The check of R102: the entry at the next state is the sentinel unless the state was passed before. -/
theorem positionsUpTo_free_iff {n : Nat} (hdistinct : DistinctStates D n) :
    (positionsUpTo D n).getD (lfsrState D n) (-1) = -1 ↔ ∀ i < n, lfsrState D i ≠ lfsrState D n := by
  constructor
  · intro hfree i hi heq
    have hentry := positionsUpTo_state hrange hdistinct hi
    rw [heq] at hentry
    rw [List.getD_eq_getElem?_getD, hentry, Option.getD_some] at hfree
    omega
  · intro hnew
    by_contra hused
    rw [List.getD_eq_getElem?_getD] at hused
    cases hentry : (positionsUpTo D n)[lfsrState D n]? with
    | none => simp [hentry] at hused
    | some v =>
      obtain ⟨m, hm, -, heq⟩ := step_of_positionsUpTo hentry (by simpa [hentry] using hused)
      exact hnew m hm heq

/-- The loop of R102 from step `n` on. -/
theorem buildFrom_eq_some_iff {k n : Nat} {T : List Int} (hdistinct : DistinctStates D n) :
    buildFrom D k n (lfsrState D n) (positionsUpTo D n) = some T ↔
      DistinctStates D (n + k) ∧ positionsUpTo D (n + k) = T := by
  induction k generalizing n with
  | zero => simp [buildFrom, hdistinct]
  | succ k ih =>
    rw [buildFrom]
    by_cases hfree : (positionsUpTo D n).getD (lfsrState D n) (-1) = -1
    · have hnext := distinctStates_succ.2 ⟨hdistinct, (positionsUpTo_free_iff hrange hdistinct).1 hfree⟩
      rw [if_neg (not_not.2 hfree), show n + (k + 1) = n + 1 + k by omega]
      exact ih hnext
    · rw [if_pos hfree]
      refine iff_of_false (by simp) fun ⟨hall, _⟩ => hfree ?_
      exact (positionsUpTo_free_iff hrange hdistinct).2 fun i hi => hall i n hi (by omega)

theorem build_eq_some_iff {T : List Int} :
    build D = some T ↔ DistinctStates D D.length ∧ positionsUpTo D D.length = T := by
  have hstart : DistinctStates D 0 := fun _ _ _ hj => absurd hj (Nat.not_lt_zero _)
  have hloop := buildFrom_eq_some_iff hrange (k := D.length) (T := T) hstart
  rwa [Nat.zero_add] at hloop

/-- Every step writes one more entry. -/
theorem countP_positionsUpTo {n : Nat} (hdistinct : DistinctStates D n) :
    (positionsUpTo D n).countP (fun v => v != -1) = n := by
  induction n with
  | zero => simp [positionsUpTo]
  | succ n ih =>
    obtain ⟨hold, hnew⟩ := distinctStates_succ.1 hdistinct
    have hlt : lfsrState D n < (positionsUpTo D n).length := by simpa using hrange n
    have hfree : (positionsUpTo D n)[lfsrState D n] = -1 := by
      rw [← (positionsUpTo_free_iff hrange hold).2 hnew, List.getD_eq_getElem _ _ hlt]
    have hn : (n : Int) ≠ -1 := by omega
    rw [positionsUpTo, List.countP_set hlt, ih hold]
    simp [hfree, hn]

end Build

/-- Settles O34: the build succeeds exactly when the states are distinct. -/
theorem buildFailsExactlyOnARepeat : Obligations.BuildFailsExactlyOnARepeat := by
  intro cfg D hlegal
  have hrange : ∀ n, lfsrState D n < 2 ^ D.W := fun n => (lfsrState_range hlegal n).2
  calc build D = none
      ↔ ¬ DistinctStates D D.length := by
        rw [Option.eq_none_iff_forall_ne_some]
        simp [build_eq_some_iff hrange]
    _ ↔ ∃ i j, i < j ∧ j < D.length ∧ lfsrState D i = lfsrState D j := by
        simp [DistinctStates]

/-- Settles O35: the built table is the one with every step's entry written, each at a state of its own. -/
theorem builtTableHoldsEachPositionOnce : Obligations.BuiltTableHoldsEachPositionOnce := by
  intro cfg D T hlegal hbuild
  have hrange : ∀ n, lfsrState D n < 2 ^ D.W := fun n => (lfsrState_range hlegal n).2
  obtain ⟨hdistinct, rfl⟩ := (build_eq_some_iff hrange).1 hbuild
  refine ⟨length_positionsUpTo D _, fun n hn => positionsUpTo_state hrange hdistinct hn,
    fun i v => step_of_positionsUpTo, ?_⟩
  rw [← List.countP_eq_length_filter]
  exact countP_positionsUpTo hrange hdistinct

end Sys2Proof.Machine

/-! ### One sample of a channel, said once (R121 to R127) -/

namespace Sys2Proof.Machine

theorem toNat_sat32 (x : Nat) : (sat32 x).toNat = min x (2 ^ 32 - 1) := by
  rw [sat32, BitVec.toNat_ofNat]
  omega

theorem gateThreshold_eq (cfg : Config) (level : Word) : gateThreshold cfg level =
    max (cfg.gateFloor * 2 ^ 16) (level.toNat * cfg.gateNum / 2 ^ cfg.gateShift) := by
  rw [gateThreshold, Nat.shiftRight_eq_div_pow]

section Estimates

variable {v : Int} (hlow : -32768 ≤ v) (hhigh : v ≤ 32767)
include hlow hhigh

/-- The update of the zero-level does not wrap (R124). -/
theorem toInt_smoothZero (cfg : Config) (zero : Word) :
    (smoothZero cfg zero v).toInt = zero.toInt + asr (v * 2 ^ 16 - zero.toInt) cfg.zeroShift := by
  have hzlow := BitVec.le_toInt zero
  have hzhigh := BitVec.toInt_lt (x := zero)
  obtain ⟨halow, hahigh⟩ := asr_between (v * 2 ^ 16 - zero.toInt) cfg.zeroShift
  exact toInt_tc32 (by omega) (by omega)

/-- The zero-level stays between its old value and the sample (R124). -/
theorem smoothZero_between (cfg : Config) (zero : Word) :
    min zero.toInt (v * 2 ^ 16) ≤ (smoothZero cfg zero v).toInt
      ∧ (smoothZero cfg zero v).toInt ≤ max zero.toInt (v * 2 ^ 16) := by
  have hasr := asr_between (v * 2 ^ 16 - zero.toInt) cfg.zeroShift
  rw [toInt_smoothZero hlow hhigh]
  omega

end Estimates

/-- The update of the signal level does not wrap (R125). -/
theorem toNat_smoothSignal {level : Word} {adev : Nat} (cfg : Config) (hadev : adev < 2 ^ 32) :
    ((smoothSignal cfg level adev).toNat : Int) =
      level.toNat + asr ((adev : Int) - level.toNat) cfg.signalShift := by
  have hasr := asr_between ((adev : Int) - level.toNat) cfg.signalShift
  exact toNat_tc32 (by omega) (by omega)

/-- The signal level stays between its old value and the absolute deviation (R125). -/
theorem smoothSignal_between {level : Word} {adev : Nat} (cfg : Config) (hadev : adev < 2 ^ 32) :
    min level.toNat adev ≤ (smoothSignal cfg level adev).toNat
      ∧ (smoothSignal cfg level adev).toNat ≤ max level.toNat adev := by
  have hasr := asr_between ((adev : Int) - level.toNat) cfg.signalShift
  have hvalue := toNat_smoothSignal (level := level) cfg hadev
  omega

section OneSample

variable {cfg : Config} {level : Word} {ch : Channel} {v : Int}

/-- A crossing is confirmed where the channel is not held, the sample is on the other side and the gate is open (R122,
R123, R126). -/
theorem confirms_iff : confirms cfg level ch v = true ↔
    ch.swapped = false
      ∧ (if ch.positive then v * 2 ^ 16 < ch.zero.toInt else ch.zero.toInt < v * 2 ^ 16)
      ∧ gateThreshold cfg level < ch.peak.toNat := by
  cases hp : ch.positive <;> simp [confirms, candidate, deviation, hp] <;> tauto

theorem confirms_of_swapped (hs : ch.swapped = true) : confirms cfg level ch v = false := by
  simp [confirms, hs]

/-- The gate is shut while the peak is within the floor (R123). -/
theorem confirms_of_peak_le (hpeak : ch.peak.toNat ≤ cfg.gateFloor * 2 ^ 16) :
    confirms cfg level ch v = false := by
  rw [Bool.eq_false_iff]
  intro h
  obtain ⟨-, -, hgate⟩ := confirms_iff.1 h
  rw [gateThreshold_eq] at hgate
  omega

@[simp] theorem channelAfter_zero : (channelAfter cfg level ch v).zero = smoothZero cfg ch.zero v := rfl

/-- A confirmed crossing flips the polarity and restarts ticker, hold and peak (R126, R127). -/
theorem channelAfter_of_confirms (h : confirms cfg level ch v = true) :
    (channelAfter cfg level ch v).positive = !ch.positive
      ∧ (channelAfter cfg level ch v).crossingTicker = 0
      ∧ (channelAfter cfg level ch v).peak = BitVec.ofNat 32 (deviation v ch).natAbs
      ∧ (channelAfter cfg level ch v).swapped = decide (1 < cfg.guard) := by
  simp [channelAfter, h, crossed]

/-- Any other sample counts the ticker on, keeps the larger peak and ends the hold at the guard (R126, R127). -/
theorem channelAfter_of_not_confirms (h : confirms cfg level ch v = false) :
    (channelAfter cfg level ch v).positive = ch.positive
      ∧ (channelAfter cfg level ch v).crossingTicker.toNat = min (ch.crossingTicker.toNat + 1) (2 ^ 32 - 1)
      ∧ (channelAfter cfg level ch v).peak = BitVec.ofNat 32 (max ch.peak.toNat (deviation v ch).natAbs)
      ∧ ((channelAfter cfg level ch v).swapped = true ↔ ch.swapped = true
          ∧ (channelAfter cfg level ch v).crossingTicker.toNat + 1 < cfg.guard) := by
  simp [channelAfter, h, held, toNat_sat32]

end OneSample

/-- Settles O38: the event is emitted where the sample confirms, and its four fields are the written-out ones. -/
theorem crossingIsConfirmedExactlyWhen : Obligations.CrossingIsConfirmedExactlyWhen := by
  intro cfg h c v d e
  have hevent : (zeroCross cfg h c v d).2 = some e ↔ confirms cfg d.signalLevel (d.channel c) v = true
      ∧ ⟨h, c, !(d.channel c).positive, crossingInterval (d.channel c)⟩ = e := by
    simp only [zeroCross, Option.ite_none_right_eq_some, Option.some.injEq]
  have hinterval : e.interval = crossingInterval (d.channel c) ↔
      e.interval.toNat = min ((d.channel c).crossingTicker.toNat + 1) (2 ^ 32 - 1) := by
    rw [← BitVec.toNat_inj, crossingInterval, toNat_sat32]
  have hfields : ⟨h, c, !(d.channel c).positive, crossingInterval (d.channel c)⟩ = e ↔
      e.decoder = h ∧ e.channel = c ∧ e.polarity = !(d.channel c).positive
        ∧ e.interval = crossingInterval (d.channel c) := by
    cases e
    simp [eq_comm]
  rw [hevent, confirms_iff, gateThreshold_eq, max_lt_iff, hfields, hinterval]
  simp only [and_assoc]

/-- Settles O40: neither update wraps, so each estimate moves by the floor of a fraction of its distance. -/
theorem estimatesMoveTowardTheSample : Obligations.EstimatesMoveTowardTheSample := by
  intro cfg h c v d hlow hhigh hch hsignal
  dsimp only
  have hadev := natAbs_deviation_le hlow hhigh hch
  rw [zeroCross_channel, channelAfter_zero, zeroCross_signalLevel]
  exact ⟨smoothZero_between hlow hhigh cfg _, smoothSignal_between cfg (hadev.trans_lt (by decide)),
    channelAfter_wf hlow hhigh hch _, smoothSignal_le hsignal hadev,
    fun c' hc => zeroCross_channel_of_ne cfg h hc v d⟩

/-- Settles O41: the two cases of a sample, with the values that do not wrap in the ranges of R26 and R33. -/
theorem channelAfterASample : Obligations.ChannelAfterASample := by
  intro cfg h c v d hlow hhigh hch hsignal
  dsimp only
  obtain ⟨-, -, hpeak⟩ := channelWf_iff.1 hch
  have hadev := natAbs_deviation_le hlow hhigh hch
  have hisSome := zeroCross_event_isSome cfg h c v d
  rw [zeroCross_channel, channelAfter_zero, zeroCross_signalLevel]
  refine ⟨gateThreshold_eq _ _, toInt_smoothZero hlow hhigh cfg _,
    toNat_smoothSignal cfg (hadev.trans_lt (by decide)), fun hsome => ?_, fun hnone => ?_⟩
  · rw [hisSome] at hsome
    obtain ⟨hpositive, hticker, hpeak', hswapped⟩ := channelAfter_of_confirms hsome
    obtain ⟨-, -, hgate⟩ := confirms_iff.1 hsome
    refine ⟨hgate, hpositive, hticker, ?_, hswapped⟩
    rw [hpeak', BitVec.toNat_ofNat]
    exact Nat.mod_eq_of_lt (hadev.trans_lt (by decide))
  · rw [hnone] at hisSome
    obtain ⟨hpositive, hticker, hpeak', hswapped⟩ := channelAfter_of_not_confirms hisSome.symm
    refine ⟨hpositive, hticker, ?_, hswapped⟩
    rw [hpeak', BitVec.toNat_ofNat]
    exact Nat.mod_eq_of_lt ((max_le hpeak hadev).trans_lt (by decide))

end Sys2Proof.Machine

/-! ### The zero-crossing stage as a state machine (R37, R130) -/

namespace Sys2Proof.Machine

theorem crossingState_eq_idle_iff {ch : Channel} : crossingState ch = .idle ↔ ch.swapped = true := by
  unfold crossingState
  split_ifs <;> simp_all

theorem crossingState_eq_armedPositive_iff {ch : Channel} :
    crossingState ch = .armedPositive ↔ ch.swapped = false ∧ ch.positive = true := by
  unfold crossingState
  split_ifs <;> simp_all

theorem crossingState_eq_armedNegative_iff {ch : Channel} :
    crossingState ch = .armedNegative ↔ ch.swapped = false ∧ ch.positive = false := by
  unfold crossingState
  split_ifs <;> simp_all

section Transitions

variable {cfg : Config} {level : Word} {ch : Channel} {v : Int}

theorem confirms_iff_of_armedNegative (h : crossingState ch = .armedNegative) :
    confirms cfg level ch v = true ↔
      0 < v * 2 ^ 16 - ch.zero.toInt ∧ gateThreshold cfg level < ch.peak.toNat := by
  obtain ⟨hswapped, hpositive⟩ := crossingState_eq_armedNegative_iff.1 h
  simp [confirms_iff, hswapped, hpositive]

theorem confirms_iff_of_armedPositive (h : crossingState ch = .armedPositive) :
    confirms cfg level ch v = true ↔
      v * 2 ^ 16 - ch.zero.toInt < 0 ∧ gateThreshold cfg level < ch.peak.toNat := by
  obtain ⟨hswapped, hpositive⟩ := crossingState_eq_armedPositive_iff.1 h
  simp [confirms_iff, hswapped, hpositive]

/-- A confirmed crossing goes to the hold, or with no guard to the other armed state. -/
theorem crossingState_channelAfter_of_confirms (h : confirms cfg level ch v = true) :
    crossingState (channelAfter cfg level ch v) =
      if 1 < cfg.guard then .idle else if ch.positive then .armedNegative else .armedPositive := by
  obtain ⟨hpositive, -, -, hswapped⟩ := channelAfter_of_confirms h
  cases hp : ch.positive <;> simp [crossingState, hpositive, hswapped, hp]

/-- A channel that is not held stays as it is without a crossing. -/
theorem crossingState_channelAfter_of_armed (hs : ch.swapped = false) (h : confirms cfg level ch v = false) :
    crossingState (channelAfter cfg level ch v) = crossingState ch := by
  obtain ⟨hpositive, -, -, hswapped⟩ := channelAfter_of_not_confirms h
  simp only [crossingState, hpositive, hswapped, hs, Bool.false_eq_true, false_and]

/-- A held channel is armed again, with its polarity kept, once the ticker reaches the guard. -/
theorem crossingState_channelAfter_of_idle (h : crossingState ch = .idle) :
    crossingState (channelAfter cfg level ch v) =
      if cfg.guard ≤ min (ch.crossingTicker.toNat + 1) (2 ^ 32 - 1) + 1 then
        if ch.positive then .armedPositive else .armedNegative
      else .idle := by
  have hs := crossingState_eq_idle_iff.1 h
  obtain ⟨hpositive, hticker, -, hswapped⟩ :=
    channelAfter_of_not_confirms (confirms_of_swapped (cfg := cfg) (level := level) (v := v) hs)
  simp only [hs, hticker, true_and, ← not_le] at hswapped
  simp only [crossingState, hpositive, hswapped, ite_not]

end Transitions

/-- Settles O39: each row is the transition of its state, confirmed or not. -/
theorem crossingStateMachine : Obligations.CrossingStateMachine := by
  intro cfg h c v d
  dsimp only
  rw [zeroCross_channel, ← gateThreshold_eq]
  refine ⟨fun hneg hdev hopens => ?_, fun hpos hdev hopens => ?_, fun hidle hguard => ?_,
    fun hidle hguard => ?_, fun hneg hstays => ?_, fun hpos hstays => ?_⟩
  · have hconf := (confirms_iff_of_armedNegative hneg).2 ⟨hdev, hopens⟩
    have hpositive := (crossingState_eq_armedNegative_iff.1 hneg).2
    simp [crossingState_channelAfter_of_confirms hconf, (channelAfter_of_confirms hconf).1, hpositive]
  · have hconf := (confirms_iff_of_armedPositive hpos).2 ⟨hdev, hopens⟩
    have hpositive := (crossingState_eq_armedPositive_iff.1 hpos).2
    simp [crossingState_channelAfter_of_confirms hconf, (channelAfter_of_confirms hconf).1, hpositive]
  · rw [crossingState_channelAfter_of_idle hidle, if_pos hguard]
  · rw [crossingState_channelAfter_of_idle hidle, if_neg hguard]
  · have hconf := Bool.eq_false_iff.2 (hstays ∘ (confirms_iff_of_armedNegative hneg).1)
    rw [crossingState_channelAfter_of_armed (crossingState_eq_armedNegative_iff.1 hneg).1 hconf, hneg]
  · have hconf := Bool.eq_false_iff.2 (hstays ∘ (confirms_iff_of_armedPositive hpos).1)
    rw [crossingState_channelAfter_of_armed (crossingState_eq_armedPositive_iff.1 hpos).1 hconf, hpos]

end Sys2Proof.Machine

/-! ### Runs of frames through the zero-crossing stage (R127, R129) -/

namespace Sys2Proof.Machine

theorem afterFrames_append (cfg : Config) (us vs : List (Int × Int)) (d : Context) :
    afterFrames cfg (us ++ vs) d = afterFrames cfg vs (afterFrames cfg us d) := List.foldl_append

/-- In a frame each channel takes its own sample once, against the level its gate sees (R207). -/
theorem crossFrame_channel (cfg : Config) (c : ChannelId) (v : Int × Int) (d : Context) :
    (crossFrame cfg v d).channel c = channelAfter cfg (seenLevel cfg c v d) (d.channel c) (sampleOf c v) := by
  cases c <;> rfl

/-- One more frame gives the channel one more sample. -/
theorem channel_afterFrames_snoc (cfg : Config) (c : ChannelId) (vs : List (Int × Int)) (v : Int × Int)
    (d : Context) : (afterFrames cfg (vs ++ [v]) d).channel c =
      channelAfter cfg (seenLevel cfg c v (afterFrames cfg vs d)) ((afterFrames cfg vs d).channel c)
        (sampleOf c v) := by
  rw [afterFrames_append]
  exact crossFrame_channel cfg c v _

/-- Within the guard after a crossing the ticker counts the frames, and the channel is held up to the frame before the
guard's last (R127). -/
theorem held_within_guard {cfg : Config} {c : ChannelId} {d : Context} (hmax : cfg.guard ≤ 2 ^ 32 - 1)
    (hticker : (d.channel c).crossingTicker = 0) (hswapped : (d.channel c).swapped = decide (1 < cfg.guard))
    (vs : List (Int × Int)) (hvs : vs.length + 1 ≤ cfg.guard) :
    ((afterFrames cfg vs d).channel c).crossingTicker.toNat = vs.length
      ∧ (((afterFrames cfg vs d).channel c).swapped = true ↔ vs.length + 1 < cfg.guard) := by
  induction vs using List.reverseRecOn with
  | nil => simp [afterFrames, hticker, hswapped]
  | append_singleton vs v ih =>
    rw [List.length_append, List.length_singleton] at hvs ⊢
    obtain ⟨hticker', hswapped'⟩ := ih (by omega)
    have hs := hswapped'.2 (by omega)
    obtain ⟨-, hcount, -, hhold⟩ := channelAfter_of_not_confirms
      (confirms_of_swapped (cfg := cfg) (level := seenLevel cfg c v (afterFrames cfg vs d)) (v := sampleOf c v) hs)
    have hcount' : min (vs.length + 1) (2 ^ 32 - 1) = vs.length + 1 := by omega
    rw [hticker', hcount'] at hcount
    rw [channel_afterFrames_snoc, hhold, hcount]
    exact ⟨rfl, and_iff_right hs⟩

/-- Settles O42: a crossing restarts ticker and hold, and a held channel confirms nothing. -/
theorem crossingsAreAtLeastGuardApart : Obligations.CrossingsAreAtLeastGuardApart := by
  intro cfg c us vs v w d hmax hcross
  obtain ⟨-, hticker, -, hswapped⟩ := channelAfter_of_confirms hcross
  rw [← channel_afterFrames_snoc] at hticker hswapped
  have hheld := held_within_guard hmax hticker hswapped vs
  rw [← afterFrames_append, List.append_assoc, List.singleton_append] at hheld
  refine ⟨fun hagain => ?_, fun _ hvs => (hheld hvs).2⟩
  by_contra hclose
  have hs := (hheld (by omega)).2.2 (by omega)
  simp [crossesAfter, confirms_of_swapped hs] at hagain

/-- What samples within half the noise floor leave of a channel: the zero-level within them, the peak within the floor
(R129). -/
structure Quiet (cfg : Config) (ch : Channel) : Prop where
  zero : ch.zero.toInt.natAbs ≤ cfg.gateFloor / 2 * 2 ^ 16
  peak : ch.peak.toNat ≤ cfg.gateFloor * 2 ^ 16

theorem quiet_initial (cfg : Config) : Quiet cfg Channel.initial where
  zero := Nat.zero_le _
  peak := Nat.zero_le _

/-- A quiet channel stays quiet under one more quiet sample. -/
theorem Quiet.channelAfter {cfg : Config} {ch : Channel} {v : Int} (hch : Quiet cfg ch)
    (hfloor : cfg.gateFloor ≤ 32767) (hv : v.natAbs ≤ cfg.gateFloor / 2) (level : Word) :
    Quiet cfg (channelAfter cfg level ch v) where
  zero := by
    have hzero := hch.zero
    have hmove := smoothZero_between (v := v) (by omega) (by omega) cfg ch.zero
    rw [channelAfter_zero]
    omega
  peak := by
    have hadev : (deviation v ch).natAbs ≤ cfg.gateFloor * 2 ^ 16 := by
      have hzero := hch.zero
      unfold deviation
      omega
    obtain ⟨-, -, hpeak, -⟩ := channelAfter_of_not_confirms
      (confirms_of_peak_le (level := level) (v := v) hch.peak)
    rw [hpeak]
    exact (Nat.mod_le _ _).trans (max_le hch.peak hadev)

theorem quiet_afterFrames {cfg : Config} {c : ChannelId} {d : Context} (hfloor : cfg.gateFloor ≤ 32767)
    (hd : Quiet cfg (d.channel c)) (vs : List (Int × Int))
    (hvs : ∀ u ∈ vs, (sampleOf c u).natAbs ≤ cfg.gateFloor / 2) :
    Quiet cfg ((afterFrames cfg vs d).channel c) := by
  induction vs generalizing d with
  | nil => exact hd
  | cons v vs ih =>
    obtain ⟨hv, hvs⟩ := List.forall_mem_cons.1 hvs
    refine ih (d := crossFrame cfg v d) ?_ hvs
    rw [crossFrame_channel]
    exact hd.channelAfter hfloor hv _

/-- Settles O43: the channel stays quiet, so its peak never passes the gate. -/
theorem noiseBelowTheFloorNeverCrosses : Obligations.NoiseBelowTheFloorNeverCrosses := by
  intro cfg c vs v d hfloor hd hvs _
  have hquiet := quiet_afterFrames hfloor (hd ▸ quiet_initial cfg) vs hvs
  exact confirms_of_peak_le hquiet.peak

end Sys2Proof.Machine

/-! ### The bit extractor: flags, direction, classifier (R140 to R147) -/

namespace Sys2Proof.Machine

theorem switchPhase_eq (D : Definition) : switchPhase D = decide (D.flags % 2 = 1) := Nat.testBit_zero _

theorem primarySample_eq (D : Definition) (s0 s1 : SampleBits) :
    primarySample D s0 s1 = if D.flags / 2 % 2 = 1 then s1.toInt else s0.toInt := by
  simp only [primarySample, switchPrimary, Nat.testBit_eq_decide_div_mod_eq, decide_eq_true_eq, apply_ite sampleValue]
  rfl

theorem secondarySample_eq (D : Definition) (s0 s1 : SampleBits) :
    secondarySample D s0 s1 = if D.flags / 2 % 2 = 1 then s0.toInt else s1.toInt := by
  simp only [secondarySample, switchPrimary, Nat.testBit_eq_decide_div_mod_eq, decide_eq_true_eq, apply_ite sampleValue]
  rfl

/-- A bit is read where the secondary crossed while the primary has the polarity flag 2 asks for (R145). -/
theorem bitRead_iff {D : Definition} {xs : Bool} {d : Context} :
    bitRead D xs d = true ↔ xs = true ∧ (d.primary.positive = true ↔ D.flags / 4 % 2 = 0) := by
  have hbit : switchPolarity D = false ↔ D.flags / 4 % 2 = 0 := by
    rw [switchPolarity, Nat.testBit_eq_decide_div_mod_eq, decide_eq_false_iff_not, Nat.mod_two_not_eq_one]
  rw [bitRead, Bool.and_eq_true, beq_iff_eq, ← hbit, ← Bool.not_eq_true', ← Bool.eq_iff_iff]

/-- Where the primary crossed, unequal polarities show forward motion; flag 0 inverts this (R142, R143). -/
theorem sensedForwards_primary_iff {D : Definition} {d : Context} :
    sensedForwards D true d = true ↔ (d.primary.positive ≠ d.secondary.positive ↔ D.flags % 2 = 0) := by
  rcases Nat.mod_two_eq_zero_or_one D.flags with hflag | hflag <;> simp [sensedForwards, switchPhase_eq, hflag]

/-- Where the secondary alone crossed, equal polarities show forward motion; flag 0 inverts this (R142, R143). -/
theorem sensedForwards_secondary_iff {D : Definition} {d : Context} :
    sensedForwards D false d = true ↔ (d.primary.positive = d.secondary.positive ↔ D.flags % 2 = 0) := by
  rcases Nat.mod_two_eq_zero_or_one D.flags with hflag | hflag <;> simp [sensedForwards, switchPhase_eq, hflag]

theorem direction_of_no_crossing (D : Definition) (d : Context) : direction D false false d = d := rfl

/-- A crossing writes the sensed direction, and a change of it clears `valid_counter` (R143, R144). -/
theorem direction_of_crossing {D : Definition} {xp xs : Bool} {d : Context} (hcross : xp = true ∨ xs = true) :
    direction D xp xs d =
      { d with seenCrossing := true, forwards := sensedForwards D xp d,
               validCounter := if sensedForwards D xp d = d.forwards then d.validCounter else 0 } := by
  have hcross : ¬ (!xp && !xs) = true := by simpa [or_iff_not_imp_left] using hcross
  rw [direction, if_neg hcross]
  by_cases hsame : sensedForwards D xp d = d.forwards <;> simp [hsame]

/-- Settles O45: the bound direction is the sensed one, whichever channel's test decides. -/
theorem directionFollowsThePolarities : Obligations.DirectionFollowsThePolarities := by
  intro D xp xs d
  refine ⟨?_, fun hcross => ⟨sensedForwards D xp d, direction_of_crossing hcross, ?_⟩⟩
  · rintro rfl rfl
    exact direction_of_no_crossing D d
  · cases xp with
    | true => simp +contextual [sensedForwards_primary_iff]
    | false => simp +contextual [sensedForwards_secondary_iff]

/-- R146 forward, in exact integers. -/
theorem classify_forwards_iff {cfg : Config} {D : Definition} {d : Context} (hf : d.forwards = true) :
    classify cfg D d = true ↔ (cfg.bndNum : ℤ) * d.rate.toNat * 2 ^ 16 <
      d.primary.crossingTicker.toNat * D.R * classifierPitch d * cfg.bndDen := by
  simp only [classify, hf, if_true, decide_eq_true_eq, gt_iff_lt]

/-- R146 in reverse, in exact integers. -/
theorem classify_reverse_iff {cfg : Config} {D : Definition} {d : Context} (hf : d.forwards = false) :
    classify cfg D d = true ↔ 2 * (d.primary.crossingTicker.toNat : ℤ) * D.R * classifierPitch d * cfg.bndDen <
      (cfg.bndDen - 2 * cfg.bndNum) * d.rate.toNat * 2 ^ 16 := by
  simp only [classify, hf, Bool.false_eq_true, if_false, decide_eq_true_eq]

theorem classifierPitch_pos (d : Context) : 0 < classifierPitch d := by
  unfold classifierPitch
  split
  · decide
  · next hpitch => exact Nat.pos_of_ne_zero fun h0 => hpitch (BitVec.eq_of_toNat_eq h0)

theorem cast_classifierPitch (d : Context) :
    (classifierPitch d : ℚ) = if d.pitch = 0 then 2 ^ 16 else (d.pitch.toNat : ℚ) := by
  rw [classifierPitch]
  split_ifs <;> norm_num

section Boundary

variable {num den r R p T : ℚ} (hden : 0 < den) (hR : 0 < R) (hp : 0 < p)
include hden hR hp

/-- The forward comparison with both denominators cleared (R146). -/
theorem boundary_lt_offset_iff :
    num / den * (r * 2 ^ 16 / (R * p)) < T ↔ num * r * 2 ^ 16 < T * R * p * den := by
  rw [div_mul_div_comm, div_lt_iff₀ (by positivity)]
  ring_nf

/-- The reverse comparison with all three denominators cleared (R146). -/
theorem offset_lt_boundary_iff :
    T < (1 / 2 - num / den) * (r * 2 ^ 16 / (R * p)) ↔ 2 * T * R * p * den < (den - 2 * num) * r * 2 ^ 16 := by
  rw [div_sub_div _ _ two_ne_zero hden.ne', div_mul_div_comm, lt_div_iff₀ (by positivity)]
  ring_nf

end Boundary

/-- Settles O46: each rational comparison, its denominators cleared, is the model's integer comparison. -/
theorem classifierComparesWithTheBoundary : Obligations.ClassifierComparesWithTheBoundary := by
  intro cfg D d hR hden
  rw [← cast_classifierPitch]
  have hR : (0 : ℚ) < D.R := Nat.cast_pos.2 hR
  have hden : (0 : ℚ) < cfg.bndDen := Nat.cast_pos.2 hden
  have hp : (0 : ℚ) < classifierPitch d := Nat.cast_pos.2 (classifierPitch_pos d)
  refine ⟨fun hf => ?_, fun hf => ?_⟩
  · rw [classify_forwards_iff hf, boundary_lt_offset_iff hden hR hp]
    norm_cast
  · rw [classify_reverse_iff hf, offset_lt_boundary_iff hden hR hp]
    norm_cast

end Sys2Proof.Machine

/-! ### The stages of a frame (R207) -/

namespace Sys2Proof.Machine

/-- A frame reads a bit: the condition of R145 after stage 1, the direction update and the tick. -/
def frameReads (s : State) (D : Definition) (h : Handle) (s0 s1 : SampleBits) (d : Context) : Bool :=
  let p := zeroCross s.cfg h .primary (primarySample D s0 s1) d
  let q := zeroCross s.cfg h .secondary (secondarySample D s0 s1) p.1
  bitRead D q.2.isSome (frameTicked s D h s0 s1 d)

section Stages

variable {s : State} {h : Handle} {s0 s1 : SampleBits} {d : Context} {D : Definition}

/-- A frame that reads no bit ends with the tick (R207). -/
theorem frame_of_no_read (hD : s.cfg.definition? d.defId = some D) (hread : ¬ frameReads s D h s0 s1 d = true) :
    frame s h s0 s1 d = .ok (frameTicked s D h s0 s1 d, frameEvents s D h s0 s1 d) := by
  rw [frame, hD]
  exact if_neg hread

/-- A frame that reads a bit classifies and resolves it on the ticked context (R207). -/
theorem frame_of_read {d' : Context} (hD : s.cfg.definition? d.defId = some D)
    (hread : frameReads s D h s0 s1 d = true)
    (hres : resolve s D (classify s.cfg D (frameTicked s D h s0 s1 d)) (frameTicked s D h s0 s1 d) = some d') :
    frame s h s0 s1 d = .ok (d', frameEvents s D h s0 s1 d) := by
  rw [frame, hD]
  refine (if_pos hread).trans ?_
  rw [frameTicked] at hres
  rw [hres]
  rfl

end Stages

/-- Settles O50: the statement's stages are the named ones, and its reading clause is R145's condition. -/
theorem frameRunsItsStagesInOrder : Obligations.FrameRunsItsStagesInOrder := by
  intro s h s0 s1 d D hD
  rw [← primarySample_eq, ← secondarySample_eq]
  intro vp vs p q d1 evs reads
  have hreads : frameReads s D h s0 s1 d = true ↔ reads :=
    bitRead_iff.trans (and_congr_left' Option.isSome_iff_ne_none)
  exact ⟨fun hno => frame_of_no_read hD (hno ∘ hreads.1), fun hyes d2 hres => frame_of_read hD (hreads.2 hyes) hres⟩

end Sys2Proof.Machine

/-! ### A read of `W` cycles in either direction (R160, R167, R168) -/

namespace Sys2Proof.Machine

section Cycles

variable {D : Definition} {window : Nat}

@[simp] theorem readCycles_snoc (D : Definition) (forwards : Bool) (cycles : List Nat) (n window : Nat) :
    readCycles D forwards (cycles ++ [n]) window =
      shiftIn D forwards (mediumBit D n) (readCycles D forwards cycles window) := by
  simp [readCycles]

theorem readCycles_lt {forwards : Bool} (hW : 1 ≤ D.W) (hw : window < 2 ^ D.W) (cycles : List Nat) :
    readCycles D forwards cycles window < 2 ^ D.W := by
  induction cycles using List.reverseRecOn with
  | nil => exact hw
  | append_singleton cycles n ih => rw [readCycles_snoc]; exact shiftIn_lt hW ih

/-- Forward, the bit of the last of `k` cycles read is at bit `W-1`, those before it below it. -/
theorem testBit_readCycles_forward (hW : 1 ≤ D.W) (hw : window < 2 ^ D.W) (first k : Nat) {i : Nat} (hi : i < D.W)
    (hread : D.W ≤ i + k) :
    (readCycles D true (List.range' first k) window).testBit i = mediumBit D (first + (i + k - D.W)) := by
  induction k generalizing i with
  | zero => omega
  | succ k ih =>
    rw [List.range'_concat, Nat.one_mul, readCycles_snoc, testBit_shiftIn_forward hW (readCycles_lt hW hw _)]
    split
    · next htop => rw [show i + (k + 1) - D.W = k by omega]
    · next hlow => rw [ih (i := i + 1) (by omega) (by omega), Nat.add_right_comm i 1 k, Nat.add_assoc]

/-- In reverse, the bit of the last of `k` cycles read is at bit 0, those before it above it. -/
theorem testBit_readCycles_reverse (last k : Nat) {i : Nat} (hi : i < D.W) (hread : i < k) :
    (readCycles D false (List.range' last k).reverse window).testBit i = mediumBit D (last + i) := by
  induction k generalizing last i with
  | zero => omega
  | succ k ih =>
    rw [List.range'_succ, List.reverse_cons, readCycles_snoc, testBit_shiftIn_reverse]
    cases i with
    | zero => rfl
    | succ i => simp [hi, ih (last + 1) (i := i) (by omega) (by omega), Nat.add_right_comm, Nat.add_assoc]

variable (hW : 1 ≤ D.W) (hrange : ∀ n, lfsrState D n < 2 ^ D.W)
include hW hrange

/-- The bit that cycle `n` carries moves one place toward bit 0 with each step after it (R100). -/
theorem testBit_lfsrState_add {n i j : Nat} (hplace : i + j = D.W - 1) :
    (lfsrState D (n + j)).testBit i = mediumBit D n := by
  induction j generalizing i with
  | zero => rw [mediumBit, ← hplace]; rfl
  | succ j ih =>
    rw [← Nat.add_assoc, lfsrState, testBit_fwd hW (hrange _), if_neg (by omega)]
    exact ih (by omega)

/-- A window that holds the bits of `W` successive cycles, the first at bit 0, is the state of the last (R167). -/
theorem eq_lfsrState_of_testBit {first x : Nat} (hx : x < 2 ^ D.W)
    (hbits : ∀ i < D.W, x.testBit i = mediumBit D (first + i)) : x = lfsrState D (first + D.W - 1) := by
  refine Nat.eq_of_testBit_eq fun i => ?_
  by_cases hi : i < D.W
  · rw [hbits i hi, show first + D.W - 1 = first + i + (D.W - 1 - i) by omega,
      testBit_lfsrState_add hW hrange (by omega)]
  · rw [testBit_of_width_le hx (Nat.not_lt.1 hi), testBit_of_width_le (hrange _) (Nat.not_lt.1 hi)]

theorem readCycles_forward (hw : window < 2 ^ D.W) (first : Nat) :
    readCycles D true (List.range' first D.W) window = lfsrState D (first + D.W - 1) :=
  eq_lfsrState_of_testBit hW hrange (readCycles_lt hW hw _) fun i hi => by
    rw [testBit_readCycles_forward hW hw first D.W hi (Nat.le_add_left ..), Nat.add_sub_cancel]

theorem readCycles_reverse (hw : window < 2 ^ D.W) (last : Nat) :
    readCycles D false (List.range' last D.W).reverse window = lfsrState D (last + D.W - 1) :=
  eq_lfsrState_of_testBit hW hrange (readCycles_lt hW hw _) fun _ hi => testBit_readCycles_reverse last D.W hi hi

end Cycles

/-- A built table gives each step at its state (R103). -/
theorem build_getD_lfsrState {cfg : Config} {D : Definition} {T : List Int} {n : Nat}
    (hlegal : fieldsLegal cfg D = true) (hbuild : build D = some T) (hn : n < D.length) :
    T.getD (lfsrState D n) (-1) = (n : Int) := by
  obtain ⟨-, hstate, -⟩ := builtTableHoldsEachPositionOnce cfg D T hlegal hbuild
  rw [List.getD_eq_getElem?_getD, hstate n hn, Option.getD_some]

/-- Settles O36: read forward, the window holds the `W` bits of the state of the last cycle read. -/
theorem forwardReadResolvesItsCycle : Obligations.ForwardReadResolvesItsCycle := by
  intro cfg D T n window hlegal hbuild hfull hn hw
  have hW : 1 ≤ D.W := le_trans (by decide) (W_bounds_of_fieldsLegal hlegal).1
  have hread := readCycles_forward hW (fun k => (lfsrState_range hlegal k).2) hw (n + 1 - D.W)
  rw [Nat.sub_add_cancel hfull, Nat.add_sub_cancel] at hread
  rw [hread]
  exact ⟨rfl, build_getD_lfsrState hlegal hbuild hn⟩

/-- Settles O37: read in reverse, the window holds the `W` bits of the state of the first cycle read. -/
theorem reverseReadResolvesTheCycleAhead : Obligations.ReverseReadResolvesTheCycleAhead := by
  intro cfg D T m window hlegal hbuild hm hw
  have hW : 1 ≤ D.W := le_trans (by decide) (W_bounds_of_fieldsLegal hlegal).1
  rw [readCycles_reverse hW (fun k => (lfsrState_range hlegal k).2) hw]
  exact ⟨rfl, build_getD_lfsrState hlegal hbuild (by omega)⟩

end Sys2Proof.Machine

/-! ### Hits and misses (R161 to R166) -/

namespace Sys2Proof.Machine

theorem track_hit {p : MissPolicy} {r : Word} (d : Context) (h : r ≠ sentinel) :
    track p r d = { d with timecode := r, timecodeTicker := 0, validCounter := sat32 (d.validCounter.toNat + 1) } :=
  if_neg h

theorem track_miss (p : MissPolicy) (d : Context) :
    track p sentinel d = { d with validCounter := missCount p d.validCounter } :=
  if_pos rfl

@[simp] theorem track_bitstream (p : MissPolicy) (r : Word) (d : Context) : (track p r d).bitstream = d.bitstream := by
  obtain ⟨-, -, -, -, -, hbits, -⟩ := track_keeps p r d
  exact hbits

theorem toNat_missCount (p : MissPolicy) (count : Word) :
    (missCount p count).toNat = match p with | .reset => 0 | .decrement => count.toNat - 1 := by
  cases p with
  | reset => rfl
  | decrement => exact Nat.mod_eq_of_lt (by omega)

/-- A miss leaves a count of 0 as it is (R162). -/
theorem missCount_eq_zero (p : MissPolicy) {count : Word} (h : count = 0) : missCount p count = 0 := by
  rw [h]
  cases p <;> rfl

/-- The window register holds the window shifted (R28). -/
theorem toNat_ofNat_shiftIn {D : Definition} {forwards b : Bool} {window : Nat} (hW : 1 ≤ D.W) (hW24 : D.W ≤ 24)
    (hw : window < 2 ^ D.W) :
    (BitVec.ofNat 24 (shiftIn D forwards b window)).toNat = shiftIn D forwards b window :=
  Nat.mod_eq_of_lt ((shiftIn_lt hW hw).trans_le (Nat.pow_le_pow_right (by decide) hW24))

/-- A lookup inside the table memory tracks the entry at the shifted window (R161, R166). -/
theorem resolve_of_memRead {s : State} {D : Definition} {b : Bool} {d : Context} {w : BitVec 24} {r : Word}
    (hw : BitVec.ofNat 24 (shiftIn D d.forwards b d.bitstream.toNat) = w)
    (hread : s.memRead d.slot.toNat w.toNat = some r) :
    resolve s D b d = some (track s.cfg.missPolicy r { d with bitstream := w }) := by
  subst hw
  simp only [resolve, hread]

/-- Settles O48: the shifted window is inside the table, so the lookup answers, and its answer is a hit or a miss. -/
theorem resolveTracksHitsAndMisses : Obligations.ResolveTracksHitsAndMisses := by
  intro s D b d hW hWmax hmax hslot hwindow
  have hw := toNat_ofNat_shiftIn (forwards := d.forwards) (b := b) hW (hWmax.trans hmax) hwindow
  generalize hreg : BitVec.ofNat 24 (shiftIn D d.forwards b d.bitstream.toNat) = w at hw
  have hinside : w.toNat < 2 ^ s.cfg.wmax :=
    hw ▸ (shiftIn_lt hW hwindow).trans_le (Nat.pow_le_pow_right (by decide) hWmax)
  refine ⟨_, resolve_of_memRead hreg (memRead_eq_some.2 ⟨hslot, hinside, rfl⟩), ?_⟩
  rw [track_bitstream]
  refine ⟨hw, fun hhit => ?_, fun hmiss => ?_⟩
  · rw [track_hit _ hhit]
    exact ⟨rfl, toNat_sat32 _⟩
  · rw [show s.entry d.slot.toNat w.toNat = sentinel from hmiss, track_miss]
    exact ⟨rfl, toNat_missCount _ _⟩

end Sys2Proof.Machine

/-! ### Liveness over a frame (R165, R180, R182) -/

namespace Sys2Proof.Machine

theorem liveness_eq_lost_iff {cfg : Config} {d : Context} :
    liveness cfg d = .lost ↔ cfg.timeout < d.timecodeTicker.toNat := by
  unfold liveness
  split
  · next h => simp [h]
  · next h => split <;> simp [h]

theorem liveness_of_ticker_le {cfg : Config} {d : Context} (h : d.timecodeTicker.toNat ≤ cfg.timeout) :
    liveness cfg d = if cfg.confirm < d.validCounter.toNat then .alive else .searching :=
  if_neg (Nat.not_lt.2 h)

/-- A frame ticks once: neither the channels nor the direction touch the ticker (R165, R207). -/
theorem frameTicked_timecodeTicker (s : State) (D : Definition) (h : Handle) (s0 s1 : SampleBits) (d : Context) :
    (frameTicked s D h s0 s1 d).timecodeTicker = sat32 (d.timecodeTicker.toNat + 1) := by
  have hdirection : ∀ xp xs q, (direction D xp xs q).timecodeTicker = q.timecodeTicker := fun xp xs q => by
    rcases direction_cases D xp xs q with hdir | hdir | ⟨f, hdir⟩ <;> rw [hdir]
  simp [frameTicked, tick, hdirection, zeroCross]

/-- What one frame does to ticker, timecode and count (R162, R163, R165): with a hit the ticker is 0 and the count one
more than it was after the tick; without one the frame has only ticked, and at most a miss has lowered the count. -/
inductive Tracked (cfg : Config) (d d' : Context) : Prop
  | hit (count : Word) (age : count = 0 ∨ min (d.timecodeTicker.toNat + 1) (2 ^ 32 - 1) ≤ cfg.timeout)
      (ticker : d'.timecodeTicker = 0) (counted : d'.validCounter = sat32 (count.toNat + 1))
  | noHit (age : d'.validCounter = 0 ∨ d'.timecodeTicker.toNat ≤ cfg.timeout)
      (ticker : d'.timecodeTicker.toNat = min (d.timecodeTicker.toNat + 1) (2 ^ 32 - 1))
      (timecode : d'.timecode = d.timecode)

theorem frame_tracked {s : State} {h : Handle} {s0 s1 : SampleBits} {d d' : Context} {evs : List Event}
    (hf : frame s h s0 s1 d = .ok (d', evs)) : Tracked s.cfg d d' := by
  obtain ⟨D, -, -, hd'⟩ := frame_ok hf
  have hticker : (frameTicked s D h s0 s1 d).timecodeTicker.toNat = min (d.timecodeTicker.toNat + 1) (2 ^ 32 - 1) := by
    rw [frameTicked_timecodeTicker, toNat_sat32]
  have hage : (frameTicked s D h s0 s1 d).validCounter = 0
      ∨ (frameTicked s D h s0 s1 d).timecodeTicker.toNat ≤ s.cfg.timeout := tick_age _ _
  obtain ⟨-, -, -, -, -, -, htime⟩ := frameTicked_keeps s D h s0 s1 d
  rcases hd' with rfl | ⟨b, hres⟩
  · exact .noHit hage hticker htime
  · obtain ⟨w, r, -, -, rfl⟩ := resolve_eq_some hres
    by_cases hr : r = sentinel
    · rw [hr, track_miss]
      exact .noHit (hage.imp_left (missCount_eq_zero _)) hticker htime
    · rw [track_hit _ hr]
      exact .hit (frameTicked s D h s0 s1 d).validCounter (hticker ▸ hage) rfl rfl

section Tracked

variable {cfg : Config} {d d' : Context}

theorem Tracked.of_ticker_ne_zero (h : Tracked cfg d d') (hne : d'.timecodeTicker ≠ 0) :
    d'.timecodeTicker.toNat = min (d.timecodeTicker.toNat + 1) (2 ^ 32 - 1) ∧ d'.timecode = d.timecode := by
  cases h with
  | hit count age ticker counted => exact absurd ticker hne
  | noHit age ticker timecode => exact ⟨ticker, timecode⟩

/-- A positive count bounds the ticker (R39). -/
theorem Tracked.ticker_le (h : Tracked cfg d d') (hcount : d'.validCounter ≠ 0) :
    d'.timecodeTicker.toNat ≤ cfg.timeout := by
  cases h with
  | hit count age ticker counted => simp [ticker]
  | noHit age ticker timecode => exact age.resolve_left hcount

/-- A ticker above `TIMEOUT` stays above it, saturated or not, until a hit (R165, R182). -/
theorem Tracked.lost_of_ticker_ne_zero (h : Tracked cfg d d') (hlost : liveness cfg d = .lost)
    (hne : d'.timecodeTicker ≠ 0) : liveness cfg d' = .lost := by
  have hold := liveness_eq_lost_iff.1 hlost
  obtain ⟨hticker, -⟩ := h.of_ticker_ne_zero hne
  exact liveness_eq_lost_iff.2 (by omega)

/-- The hit that ends LOST is counted from 0 (R165, R182). -/
theorem Tracked.validCounter_of_lost_hit (h : Tracked cfg d d') (hlost : liveness cfg d = .lost)
    (hzero : d'.timecodeTicker = 0) : d'.validCounter = 1 := by
  have hold := liveness_eq_lost_iff.1 hlost
  cases h with
  | hit count age ticker counted =>
    have hcount : count = 0 := age.resolve_right (by omega)
    rw [counted, hcount]
    rfl
  | noHit age ticker timecode =>
    have hnone : d'.timecodeTicker.toNat = 0 := by rw [hzero]; rfl
    omega

end Tracked

/-- Settles O49: a frame ticks and then at most tracks one lookup; each clause is read off those two cases. -/
theorem livenessOverOneFrame : Obligations.LivenessOverOneFrame := by
  intro s h s0 s1 d d' evs _ hf
  have htracked := frame_tracked hf
  refine ⟨htracked.of_ticker_ne_zero, htracked.lost_of_ticker_ne_zero, fun hlost hzero => ?_, fun hlost => ?_,
    htracked.ticker_le⟩
  · have hcount := htracked.validCounter_of_lost_hit hlost hzero
    rw [liveness_of_ticker_le (by simp [hzero]), hcount]
    simp
  · by_contra hcount
    exact absurd (htracked.ticker_le hcount) (Nat.not_le.2 (liveness_eq_lost_iff.1 hlost))

end Sys2Proof.Machine

/-! ### Silence (R190) -/

namespace Sys2Proof.Machine

/-- Silence lies on the channel's side of the zero-level or on it, so a silent sample is no candidate (R122, R190). -/
def Channel.silentSide (ch : Channel) : Prop :=
  if ch.positive then ch.zero.toInt ≤ 0 else 0 ≤ ch.zero.toInt

theorem silentSide_of_positive {ch : Channel} (h : ch.positive = true) :
    ch.silentSide ↔ ch.zero.toInt ≤ 0 := by
  rw [Channel.silentSide, if_pos h]

theorem silentSide_of_negative {ch : Channel} (h : ch.positive = false) :
    ch.silentSide ↔ 0 ≤ ch.zero.toInt := by
  rw [Channel.silentSide, h, if_neg Bool.false_ne_true]

/-- Under silence the zero-level keeps its sign or reaches 0 (R124, R190). -/
theorem smoothZero_silent_sign (cfg : Config) (zero : Word) :
    (zero.toInt ≤ 0 → (smoothZero cfg zero 0).toInt ≤ 0)
      ∧ (0 ≤ zero.toInt → 0 ≤ (smoothZero cfg zero 0).toInt) := by
  have hbetween := smoothZero_between (v := 0) (by decide) (by decide) cfg zero
  omega

section Silence

variable {cfg : Config} {level : Word} {ch : Channel}

theorem Channel.silentSide.not_confirms (h : ch.silentSide) : confirms cfg level ch 0 = false := by
  rw [Bool.eq_false_iff]
  intro hconf
  obtain ⟨-, hside, -⟩ := confirms_iff.1 hconf
  cases hp : ch.positive with
  | true =>
    have hzero := (silentSide_of_positive hp).1 h
    rw [if_pos hp] at hside
    omega
  | false =>
    have hzero := (silentSide_of_negative hp).1 h
    rw [hp, if_neg Bool.false_ne_true] at hside
    omega

/-- A channel that silence does not cross is not crossed by the next silent sample either. -/
theorem Channel.silentSide.channelAfter (h : ch.silentSide) : (channelAfter cfg level ch 0).silentSide := by
  obtain ⟨hbelow, habove⟩ := smoothZero_silent_sign cfg ch.zero
  obtain ⟨hpositive, -⟩ := channelAfter_of_not_confirms (h.not_confirms (cfg := cfg) (level := level))
  cases hp : ch.positive with
  | true => exact (silentSide_of_positive (hpositive.trans hp)).2 (hbelow ((silentSide_of_positive hp).1 h))
  | false => exact (silentSide_of_negative (hpositive.trans hp)).2 (habove ((silentSide_of_negative hp).1 h))

/-- A crossing that silence confirms flips the polarity to the side silence is on (R126). -/
theorem silentSide_of_confirms (h : confirms cfg level ch 0 = true) :
    (channelAfter cfg level ch 0).silentSide := by
  obtain ⟨hbelow, habove⟩ := smoothZero_silent_sign cfg ch.zero
  obtain ⟨-, hside, -⟩ := confirms_iff.1 h
  obtain ⟨hpositive, -⟩ := channelAfter_of_confirms h
  cases hp : ch.positive with
  | true =>
    rw [if_pos hp] at hside
    rw [hp] at hpositive
    exact (silentSide_of_negative hpositive).2 (habove (by omega))
  | false =>
    rw [hp, if_neg Bool.false_ne_true] at hside
    rw [hp] at hpositive
    exact (silentSide_of_positive hpositive).2 (hbelow (by omega))

end Silence

theorem sampleOf_silent (c : ChannelId) : sampleOf c (0, 0) = 0 := by cases c <;> rfl

theorem silentSide_afterFrames {cfg : Config} {c : ChannelId} {d : Context} (h : (d.channel c).silentSide)
    (n : Nat) : ((afterFrames cfg (List.replicate n (0, 0)) d).channel c).silentSide := by
  induction n with
  | zero => exact h
  | succ n ih =>
    rw [List.replicate_succ', channel_afterFrames_snoc, sampleOf_silent]
    exact ih.channelAfter

/-- Settles O44: the first crossing puts the channel on the side of silence, where the later frames leave it. -/
theorem silenceCrossesAtMostOnce : Obligations.SilenceCrossesAtMostOnce := by
  intro cfg c m n d hmn hcross
  obtain ⟨k, rfl⟩ := Nat.exists_eq_add_of_lt hmn
  rw [crossesAfter, sampleOf_silent] at hcross ⊢
  have hside : ((afterFrames cfg (List.replicate (m + 1) (0, 0)) d).channel c).silentSide := by
    rw [List.replicate_succ', channel_afterFrames_snoc, sampleOf_silent]
    exact silentSide_of_confirms hcross
  have hrun : List.replicate (m + k + 1) ((0, 0) : Int × Int) =
      List.replicate (m + 1) (0, 0) ++ List.replicate k (0, 0) := by
    rw [List.replicate_append_replicate, Nat.add_right_comm]
  rw [hrun, afterFrames_append]
  exact (silentSide_afterFrames hside k).not_confirms

end Sys2Proof.Machine

/-! ### The commands that name a context (R180 to R189) -/

namespace Sys2Proof.Machine

/-- A context that is not in use fails its check, but only after the window check (R183, R200). -/
theorem outsideWindow_withDecoder_unused {s : State} {d : Handle} (h : s.unused d) (k : Context → Result) :
    outsideWindow s (withDecoder s d k) = .next (s.refusing (if s.sub.active then .busy else .badHandle)) := by
  cases ha : s.sub.active with
  | true => exact outsideWindow_open ha _
  | false => exact (outsideWindow_closed ha _).trans (withDecoder_unused h k)

/-- Outside a window a command on a context in use is what it does with that context (R183, R200). -/
theorem outsideWindow_withDecoder_uses {s : State} {d : Handle} {c : Context} (closed : s.sub.active = false)
    (uses : s.uses d c) (k : Context → Result) : outsideWindow s (withDecoder s d k) = k c :=
  (outsideWindow_closed closed _).trans (withDecoder_uses uses k)

/-- Settles O9: each of the commands is the window check around the handle check around the rest. -/
theorem unusedDecoderRaisesBadHandle : Obligations.UnusedDecoderRaisesBadHandle := by
  intro s d i hunused hi
  rcases hi with rfl | rfl | ⟨n, r, rfl⟩ | ⟨p, rfl⟩ | rfl | rfl | rfl | rfl | rfl | ⟨r, rfl⟩
  all_goals exact outsideWindow_withDecoder_unused hunused _

/-- Settles O19: of the effects a command can have, a query has a refusal and an answer only. -/
theorem queriesChangeOnlyTheResponseTrace : Obligations.QueriesChangeOnlyTheResponseTrace := by
  intro i s t hi h
  cases exec_effect h with
  | refuse | query => exact ⟨_, rfl⟩
  | _ => simp [Instr.opcode] at hi

/-! #### What each of them answers -/

theorem isAlive_iff {cfg : Config} {c : Context} : isAlive cfg c = true ↔
    cfg.confirm < c.validCounter.toNat ∧ c.timecodeTicker.toNat ≤ cfg.timeout := by
  simp only [isAlive, Bool.and_eq_true, decide_eq_true_eq]

section Answers

variable {s : State} {d : Handle} {c : Context} (closed : s.sub.active = false) (uses : s.uses d c)
include closed uses

theorem exec_getAlive : exec (.getAlive d) s = .next (s.answering (bit32 (isAlive s.cfg c)) 0) :=
  outsideWindow_withDecoder_uses closed uses _

theorem exec_getPitch : exec (.getPitch d) s = .next (s.answering (tc32 (signedPitch c)) 0) :=
  outsideWindow_withDecoder_uses closed uses _

theorem exec_getSafe {D : Definition} (hD : s.cfg.definition? c.defId = some D) :
    exec (.getSafe d) s = .next (s.answering (BitVec.ofNat 32 D.safe) 0) :=
  (outsideWindow_withDecoder_uses closed uses _).trans (withDefinition_some hD _)

theorem exec_getResolution {D : Definition} (hD : s.cfg.definition? c.defId = some D) :
    exec (.getResolution d) s = .next (s.answering (BitVec.ofNat 32 D.R) 0) :=
  (outsideWindow_withDecoder_uses closed uses _).trans (withDefinition_some hD _)

theorem exec_setPitch (pitch : Word) : exec (.setPitch d pitch) s =
    if pitch.getLsbD 31 then .next (s.refusing .invalidParam)
    else .next ((s.setContext d.toNat { c with pitch := pitch }).answering 0 0) :=
  outsideWindow_withDecoder_uses closed uses _

end Answers

/-- Settles O12: `isAlive` is the condition of R180, and the two answers are its two values. -/
theorem getPositionAnswers : Obligations.GetPositionAnswers := by
  intro s d c closed uses
  rw [exec_getPosition closed uses, ← isAlive_iff]
  exact ⟨fun halive => if_pos halive, fun hdead => if_neg hdead⟩

/-- Settles O13: as O12, with the truth value itself as the answer. -/
theorem getAliveAnswers : Obligations.GetAliveAnswers := by
  intro s d c closed uses
  rw [exec_getAlive closed uses, ← isAlive_iff]
  refine ⟨fun halive => ?_, fun hdead => ?_⟩
  · rw [halive]
    rfl
  · rw [Bool.eq_false_iff.2 hdead]
    rfl

theorem signedPitch_eq (c : Context) : signedPitch c = if c.seenCrossing = false then 0
    else if c.forwards = true then (c.pitch.toNat : Int) else -(c.pitch.toNat : Int) := by
  cases h : c.seenCrossing <;> simp [signedPitch, h]

theorem natAbs_signedPitch_le (c : Context) : (signedPitch c).natAbs ≤ c.pitch.toNat := by
  rw [signedPitch_eq]
  split_ifs <;> omega

/-- Settles O14: a magnitude below 2^31 has room for its sign. -/
theorem getPitchAnswersSignedPitch : Obligations.GetPitchAnswersSignedPitch := by
  intro s d c closed uses hpitch
  have hmagnitude := natAbs_signedPitch_le c
  refine ⟨_, exec_getPitch closed uses, ?_⟩
  rw [toInt_tc32 (by omega) (by omega), signedPitch_eq]

/-- The fields of a legal definition that the queries answer fit a data field (R104). -/
theorem safe_R_lt_of_fieldsLegal {cfg : Config} {D : Definition} (h : fieldsLegal cfg D = true)
    (hmax : cfg.wmax ≤ 24) : D.safe < 2 ^ 32 ∧ D.R < 2 ^ 32 := by
  obtain ⟨-, hW, -, -, -, -, hlength, hsafe, -, hR, -⟩ := fieldsLegal_iff.1 h
  have hsize : 2 ^ D.W ≤ 2 ^ 24 := Nat.pow_le_pow_right (by decide) (hW.trans hmax)
  omega

/-- Settles O15: both fields are answered whole, because they fit. -/
theorem getSafeAndResolutionAnswer : Obligations.GetSafeAndResolutionAnswer := by
  intro s d c D closed uses hD hfields hlegal
  obtain ⟨hmax, -⟩ := bounds_of_legal hlegal
  obtain ⟨hsafe, hR⟩ := safe_R_lt_of_fieldsLegal hfields hmax
  exact ⟨_, _, exec_getSafe closed uses hD, Nat.mod_eq_of_lt hsafe, exec_getResolution closed uses hD,
    Nat.mod_eq_of_lt hR⟩

/-- Bit 31 of a word says which half of its range it is in. -/
theorem getLsbD_31_iff {w : Word} : w.getLsbD 31 = true ↔ 2 ^ 31 ≤ w.toNat := by
  have hmsb : w.getLsbD 31 = w.msb := (BitVec.msb_eq_getLsbD_last w).symm
  rw [hmsb, BitVec.msb_eq_true_iff_two_mul_ge]
  omega

/-- Settles O20: the pitches that are refused are those from 2^31 on. -/
theorem setPitchWritesThePitch : Obligations.SetPitchWritesThePitch := by
  intro s d c pitch closed uses
  rw [exec_setPitch closed uses]
  exact ⟨fun hlow => if_neg fun hbit => Nat.not_le.2 hlow (getLsbD_31_iff.1 hbit),
    fun hhigh => if_pos (getLsbD_31_iff.2 hhigh)⟩

end Sys2Proof.Machine

/-! ### Taking a word, and the window check (R200, R206) -/

namespace Sys2Proof.Machine

/-- Settles O6: `step` by its definition, on a port whose next word decodes. -/
theorem stepRunsTheDecodedCommand : Obligations.StepRunsTheDecodedCommand := by
  intro s w rest i hport hdecode
  simp only [step, fetch, hport, hdecode]

/-- Settles O8: every command but SAMPLE is guarded by `outsideWindow`, SAMPLE by `insideWindow`. -/
theorem windowCheckComesFirst : Obligations.WindowCheckComesFirst := by
  intro s i
  cases i with
  | sample s0 s1 => exact ⟨fun _ hne => absurd rfl hne, fun closed _ => insideWindow_closed closed _⟩
  | _ => exact ⟨fun opened _ => outsideWindow_open opened _, nofun⟩

end Sys2Proof.Machine

/-! ### INIT, CLEAR, DESTROY, SUBMIT (R201 to R204) -/

namespace Sys2Proof.Machine

section Sessions

variable {s s' : State}

/-- INIT where a context is free and the table is acquired (R201). -/
theorem exec_init_of_ok {id : DefId} {D : Definition} {d t : Nat} {fresh : Bool} (closed : s.sub.active = false)
    (hD : s.cfg.definition? id = some D) (hfree : s.leastFreeContext d)
    (h : acquireTable s .dec id = .ok (s', t, fresh)) :
    exec (.init id) s =
      .next ((s'.setContext d (boundContext id t)).answering (BitVec.ofNat 32 d) (BitVec.ofNat 32 t)) := by
  show outsideWindow s _ = _
  rw [outsideWindow_closed closed, hD, freeContext?_eq_some.2 hfree, h]
  rfl

/-- The last reference of a slot releases it (R109). -/
theorem dropDec_last {sl : Slot} (hext : sl.extRefs = 0) (hdec : sl.decRefs = 1) :
    sl.dropDec = { sl with decRefs := 0, valid := false } := by
  simp [Slot.dropDec, releaseIfUnused, hext, hdec]

/-- A slot with another reference keeps its table (R109). -/
theorem dropDec_notLast {sl : Slot} (h : sl.extRefs ≠ 0 ∨ sl.decRefs ≠ 1) :
    sl.dropDec = { sl with decRefs := sl.decRefs - 1 } := by
  refine if_neg fun ⟨hext, hdec⟩ => ?_
  rcases h with h | h
  · exact h hext
  · exact h (by bv_omega)

section Decoder

variable {d : Handle} {c : Context} (closed : s.sub.active = false) (uses : s.uses d c)
include closed uses

theorem exec_clear : exec (.clear d) s = .next ((s.setContext d.toNat (resetAdaptive c)).answering 0 0) :=
  outsideWindow_withDecoder_uses closed uses _

theorem exec_destroy {sl : Slot} (hslot : c.slot.toNat < s.cfg.ntab) (hsl : s.slots[c.slot.toNat]? = some sl) :
    exec (.destroy d) s =
      .next (((s.setSlot c.slot.toNat sl.dropDec).setContext d.toNat { c with inUse := false }).answering
        (bit32 sl.dropDec.valid) 0) := by
  refine (outsideWindow_withDecoder_uses closed uses _).trans ((if_neg (Nat.not_le.2 hslot)).trans ?_)
  rw [slotAt_of_getElem? hsl]
  rfl

theorem exec_submit (count rate : Field24) : exec (.submit d count rate) s =
    if rate = 0 then .next (s.refusing .invalidParam)
    else if count = 0 then .next ((s.setContext d.toNat { c with rate := rate }).answering 0 0)
    else .next ((s.setContext d.toNat { c with rate := rate }).setSub
      { active := true, handle := d, count := count, remaining := count }) :=
  outsideWindow_withDecoder_uses closed uses _

/-- A submission of at least one frame opens the window (R204). -/
theorem exec_submit_opens {count rate : Field24} (hrate : rate ≠ 0) (hcount : count ≠ 0) :
    exec (.submit d count rate) s = .next ((s.setContext d.toNat { c with rate := rate }).setSub
      { active := true, handle := d, count := count, remaining := count }) := by
  rw [exec_submit closed uses, if_neg hrate, if_neg hcount]

end Decoder

end Sessions

/-- Settles O27: the table is shared, and the new context is `boundContext`. -/
theorem initSharesABuiltTable : Obligations.InitSharesABuiltTable := by
  intro s id D t d sl closed hD hholds hfree
  exact exec_init_of_ok closed hD hfree (acquireTable_shared hD hholds)

/-- Settles O28: the memory is the one with the table written to the slot. -/
theorem initBuildsInTheLeastFreeSlot : Obligations.InitBuildsInTheLeastFreeSlot := by
  intro s id D T t d closed hwf hD hlacks hlegal hbuild hslot hfree
  exact ⟨writeTable s.cfg s.mem t D.W T,
    exec_init_of_ok closed hD hfree (acquireTable_fresh hD hlacks hlegal hslot hbuild),
    fun i hi => read_writeTable hwf hi, fun k hk => read_writeTable_other hk⟩

/-- Settles O21: `resetAdaptive` writes every field but the binding, `in_use` and the rate. -/
theorem clearResetsTheAdaptiveState : Obligations.ClearResetsTheAdaptiveState := by
  intro s d c closed uses
  obtain ⟨-, -, hu⟩ := id uses
  rw [exec_clear closed uses, resetAdaptive, hu]
  rfl

/-- Settles O22: the one reference dropped is the last one or it is not. -/
theorem destroyDropsTheReference : Obligations.DestroyDropsTheReference := by
  intro s d c sl closed uses hslot hsl hvalid
  rw [exec_destroy closed uses hslot hsl]
  refine ⟨fun hmore => ?_, fun ⟨hext, hdec⟩ => ?_⟩
  · rw [dropDec_notLast hmore, hvalid]
    rfl
  · rw [dropDec_last hext hdec]
    rfl

/-- Settles O23: the three cases are the branches of SUBMIT. -/
theorem submitSetsTheRateAndOpensTheWindow : Obligations.SubmitSetsTheRateAndOpensTheWindow := by
  intro s d c count rate closed uses
  refine ⟨fun hrate => ?_, fun hrate hcount => ?_, fun hrate hcount => exec_submit_opens closed uses hrate hcount⟩
  · rw [exec_submit closed uses, if_pos hrate]
  · rw [exec_submit closed uses, if_neg hrate, if_pos hcount]
    rfl

end Sys2Proof.Machine

/-! ### A frame of a well-formed state completes (R205, R207) -/

namespace Sys2Proof.Machine

section Sample

variable {s : State} {s0 s1 : SampleBits}

/-- A context in use is bound to a valid slot, which holds the table of its definition (R21, R23). -/
theorem bound_of_wellFormed {d : Handle} {c : Context} (hs : s.wellFormed = true) (uses : s.uses d c) :
    ∃ D sl, s.built c.slot.toNat sl ∧ ContextSound s.cfg s.slots D c
      ∧ HoldsTable s.cfg s.mem c.slot.toNat D := by
  obtain ⟨h, -, -⟩ := wellFormed_iff.1 hs
  obtain ⟨-, hget, hu⟩ := uses
  obtain ⟨D, hD⟩ := h.context c (List.mem_of_getElem? hget) hu
  obtain ⟨sl, hsl, hvalid, hid⟩ := hD.slot
  obtain ⟨D', hD', htable⟩ := (h.slot _ sl hsl).table hvalid
  obtain rfl : D = D' := by simpa [hid, hD.definition] using hD'
  exact ⟨D, sl, ⟨h.slots_length ▸ (List.getElem?_eq_some_iff.1 hsl).1, hsl, hvalid⟩, hD, htable⟩

/-- An open window names a context in use (R34). -/
theorem window_uses_of_wellFormed (hs : s.wellFormed = true) (opened : s.sub.active = true) :
    ∃ c, s.uses s.sub.handle c := by
  obtain ⟨-, -, hwindow⟩ := wellFormed_iff.1 hs
  obtain ⟨-, -, c, hlt, hget, hu, -⟩ := hwindow opened
  exact ⟨c, hlt, hget, hu⟩

/-- A frame of a context in use completes: its definition is there, and a bit that is read is looked up inside the
table (R161). -/
theorem frame_completes {d h : Handle} {c : Context} (hs : s.wellFormed = true) (uses : s.uses d c) :
    ∃ c' evs, frame s h s0 s1 c = .ok (c', evs) := by
  obtain ⟨D, sl, ⟨hntab, -, -⟩, hD, hlegal, -⟩ := bound_of_wellFormed hs uses
  by_cases hread : frameReads s D h s0 s1 c = true
  · obtain ⟨hWlow, hWhigh⟩ := W_bounds_of_fieldsLegal hlegal
    obtain ⟨hmax, -, -⟩ := bounds_of_legal (wellFormed_iff.1 hs).1.legal
    obtain ⟨-, -, hslot, -⟩ := frameTicked_keeps s D h s0 s1 c
    obtain ⟨c', hres, -⟩ := resolveTracksHitsAndMisses s D (classify s.cfg D (frameTicked s D h s0 s1 c))
      (frameTicked s D h s0 s1 c) (by omega) hWhigh hmax (hslot ▸ hntab) (frameTicked_sound hD).window
    exact ⟨c', _, frame_of_read hD.definition hread hres⟩
  · exact ⟨_, _, frame_of_no_read hD.definition hread⟩

/-- SAMPLE inside a window, where the frame completes (R205). -/
theorem exec_sample_of_frame {c c' : Context} {evs : List Event} (opened : s.sub.active = true)
    (uses : s.uses s.sub.handle c) (framed : frame s s.sub.handle s0 s1 c = .ok (c', evs)) :
    exec (.sample s0 s1) s = endFrame ((s.setContext s.sub.handle.toNat c').emit evs) := by
  obtain ⟨hlt, hget, -⟩ := uses
  refine (insideWindow_open opened _).trans ?_
  simp only [context?_eq_some.2 ⟨hlt, hget⟩, framed]

end Sample

/-- Settles O52: the frame completes, and it is the last of the window or it is not. -/
theorem sampleRunsOneFrame : Obligations.SampleRunsOneFrame := by
  intro s s0 s1 hs opened
  obtain ⟨c, uses⟩ := window_uses_of_wellFormed hs opened
  obtain ⟨c', evs, framed⟩ := frame_completes (h := s.sub.handle) (s0 := s0) (s1 := s1) hs uses
  refine ⟨c, c', evs, uses, framed, ?_⟩
  rw [exec_sample_of_frame opened uses framed]
  rcases endFrame_cases ((s.setContext s.sub.handle.toNat c').emit evs) with ⟨more, hend⟩ | ⟨last, hend⟩
  · have hne : s.sub.remaining ≠ 1 := fun hone => more (sub_eq_zero.2 hone)
    refine ⟨fun _ => ?_, fun hone => absurd hone hne⟩
    rw [hend]
    simp only [emit_sub, setContext_sub]
    rw [← opened]
    rfl
  · have hone : s.sub.remaining = 1 := sub_eq_zero.1 last
    exact ⟨fun hne => absurd hone hne, fun _ => hend⟩

end Sys2Proof.Machine

/-! ### A whole submission (R204 to R206) -/

namespace Sys2Proof.Machine

theorem execAll_cons_of_next {i : Instr} {is : List Instr} {s u : State} (h : exec i s = .next u) :
    execAll (i :: is) s = execAll is u := by
  rw [execAll, h]

theorem execAll_append_of_next {is js : List Instr} {s u : State} (h : execAll is s = .next u) :
    execAll (is ++ js) s = execAll js u := by
  induction is generalizing s with
  | nil => cases h; rfl
  | cons i is ih =>
    rw [execAll] at h
    split at h
    · next v hv => exact (execAll_cons_of_next hv).trans (ih h)
    · cases h
    · cases h

/-- The SAMPLE commands that carry the given frames (R205). -/
def sampleCommands (frames : List (SampleBits × SampleBits)) : List Instr := frames.map fun p => .sample p.1 p.2

/-- `u` is `s` but for context `d`, the window, the port and the traces. -/
structure OnlyContext (s : State) (d : Handle) (u : State) : Prop where
  slots : u.slots = s.slots
  mem : u.mem = s.mem
  cfg : u.cfg = s.cfg
  others : ∀ k, k ≠ d.toNat → u.ctxs[k]? = s.ctxs[k]?

theorem OnlyContext.set {s u v : State} {d : Handle} {c : Context} (h : OnlyContext s d u)
    (slots : v.slots = u.slots) (mem : v.mem = u.mem) (cfg : v.cfg = u.cfg) (ctxs : v.ctxs = u.ctxs.set d.toNat c) :
    OnlyContext s d v where
  slots := slots.trans h.slots
  mem := mem.trans h.mem
  cfg := cfg.trans h.cfg
  others k hk := by rw [ctxs, List.getElem?_set_ne hk.symm, h.others k hk]

/-- `u` is inside the submission of `count` frames to context `d` that was started in `s`, after `k` frames of it. -/
structure InSubmission (s : State) (d : Handle) (count : Field24) (k : Nat) (u : State) : Prop where
  wellFormed : u.wellFormed = true
  opened : u.sub.active = true
  handle : u.sub.handle = d
  total : u.sub.count = count
  remaining : u.sub.remaining.toNat + k = count.toNat
  responses : u.responses = s.responses
  block : OnlyContext s d u

section Submission

variable {s u : State} {d : Handle} {count : Field24} {k : Nat}

/-- SUBMIT of at least one frame starts the submission (R204). -/
theorem exec_submit_inSubmission {c : Context} {rate : Field24} (hs : s.wellFormed = true)
    (closed : s.sub.active = false) (uses : s.uses d c) (hrate : rate ≠ 0) (hcount : count ≠ 0) :
    ∃ u, exec (.submit d count rate) s = .next u ∧ InSubmission s d count 0 u := by
  have h := exec_submit_opens closed uses hrate hcount
  exact ⟨_, h, (exec_effect h).wellFormed hs, rfl, rfl, rfl, rfl, rfl,
    OnlyContext.set ⟨rfl, rfl, rfl, fun _ _ => rfl⟩ rfl rfl rfl rfl⟩

/-- A frame that is not the last stays inside the submission and answers nothing (R205). -/
theorem InSubmission.sample (h : InSubmission s d count k u) (hk : k + 1 < count.toNat) (s0 s1 : SampleBits) :
    ∃ v, exec (.sample s0 s1) u = .next v ∧ InSubmission s d count (k + 1) v := by
  obtain ⟨hwf, opened, rfl, rfl, hremaining, hresponses, hblock⟩ := h
  obtain ⟨c, c', evs, -, -, hmore, -⟩ := sampleRunsOneFrame u s0 s1 hwf opened
  have hexec := hmore (by bv_omega)
  exact ⟨_, hexec, (exec_effect hexec).wellFormed hwf, opened, rfl, rfl, by dsimp only; bv_omega, hresponses,
    hblock.set rfl rfl rfl rfl⟩

/-- The last frame closes the window and answers the count (R205). -/
theorem InSubmission.sampleLast (h : InSubmission s d count k u) (hk : k + 1 = count.toNat) (s0 s1 : SampleBits) :
    ∃ v, exec (.sample s0 s1) u = .next v
      ∧ v.responses = s.responses ++ [{ status := .ok, data0 := count.setWidth 32, data1 := 0 }]
      ∧ v.sub.active = false ∧ OnlyContext s d v := by
  obtain ⟨hwf, opened, rfl, rfl, hremaining, hresponses, hblock⟩ := h
  obtain ⟨c, c', evs, -, -, -, hlast⟩ := sampleRunsOneFrame u s0 s1 hwf opened
  exact ⟨_, hlast (by bv_omega), by rw [answering_responses, hresponses], rfl, hblock.set rfl rfl rfl rfl⟩

/-- The frames before the last one, by induction on how many there are, the latest frame taken apart. -/
theorem InSubmission.samples (h : InSubmission s d count 0 u) {frames : List (SampleBits × SampleBits)}
    (hlt : frames.length < count.toNat) :
    ∃ v, execAll (sampleCommands frames) u = .next v ∧ InSubmission s d count frames.length v := by
  induction frames using List.reverseRecOn with
  | nil => exact ⟨u, rfl, h⟩
  | append_singleton frames p ih =>
    rw [List.length_append, List.length_singleton] at hlt ⊢
    obtain ⟨v, hrun, hv⟩ := ih (by omega)
    obtain ⟨w, hexec, hw⟩ := hv.sample hlt p.1 p.2
    refine ⟨w, ?_, hw⟩
    rw [sampleCommands, List.map_append]
    exact (execAll_append_of_next hrun).trans (execAll_cons_of_next hexec)

end Submission

/-- Settles O53: the SUBMIT and the frames before the last one stay inside the submission, and the last one ends it. -/
theorem submissionAnswersOnceAtItsLastFrame : Obligations.SubmissionAnswersOnceAtItsLastFrame := by
  intro s d c count rate frames hs closed uses hrate hcount hlength
  obtain ⟨u, hsubmit, hu⟩ := exec_submit_inSubmission hs closed uses hrate hcount
  simp only [execAll_cons_of_next hsubmit]
  constructor
  · intro k hk
    have htake : (frames.take k).length = k := List.length_take_of_le (by omega)
    obtain ⟨v, hrun, hv⟩ := hu.samples (htake.trans_lt hk)
    rw [htake] at hv
    exact ⟨v, hrun, hv.responses, hv.opened, Nat.eq_sub_of_add_eq hv.remaining⟩
  · have hpos : count.toNat ≠ 0 := fun h0 => hcount (BitVec.eq_of_toNat_eq h0)
    rcases List.eq_nil_or_concat' frames with rfl | ⟨before, p, rfl⟩
    · exact absurd hlength.symm hpos
    rw [List.length_append, List.length_singleton] at hlength
    obtain ⟨v, hrun, hv⟩ := hu.samples (frames := before) (by omega)
    obtain ⟨t, hexec, hresponses, hclosed, hblock⟩ := hv.sampleLast hlength p.1 p.2
    refine ⟨t, ?_, hresponses, hclosed, hblock.slots, hblock.mem, hblock.cfg, hblock.others⟩
    rw [List.map_append]
    exact (execAll_append_of_next hrun).trans (execAll_cons_of_next hexec)

end Sys2Proof.Machine

/-! ### Every command completes in a well-formed state (R200, R225) -/

namespace Sys2Proof.Machine

section Checks

variable {s : State}

/-- Where the window check fails, the command raises; so it completes if the rest does (R200). -/
theorem outsideWindow_completes {k : Result} (hk : ∃ t, k = .next t) : ∃ t, outsideWindow s k = .next t := by
  cases ha : s.sub.active with
  | true => exact ⟨_, outsideWindow_open ha k⟩
  | false => rwa [outsideWindow_closed ha]

/-- A command with a decoder handle completes if what it does with a context in use does (R183, R200). -/
theorem decoderCommand_completes {d : Handle} {k : Context → Result} (hk : ∀ c, s.uses d c → ∃ t, k c = .next t) :
    ∃ t, outsideWindow s (withDecoder s d k) = .next t := by
  apply outsideWindow_completes
  unfold withDecoder
  split
  · next c hc =>
    obtain ⟨hlt, hget⟩ := context?_eq_some.1 hc
    split
    · next hu => exact hk c ⟨hlt, hget, hu⟩
    · exact ⟨_, rfl⟩
  · exact ⟨_, rfl⟩

/-- A command with a slot handle completes if what it does with a valid slot does (R107, R108, R200). -/
theorem slotCommand_completes {n : Handle} {k : Slot → Result}
    (hk : ∀ sl, s.built n.toNat sl → ∃ t, k sl = .next t) :
    ∃ t, outsideWindow s (withBuiltSlot s n k) = .next t := by
  apply outsideWindow_completes
  unfold withBuiltSlot
  split
  · next h =>
    obtain ⟨hlt, hvalid⟩ : n.toNat < s.cfg.ntab ∧ (s.slotAt n.toNat).valid = true := by simpa using h
    exact hk _ ⟨hlt, getElem?_of_slotAt_valid hvalid, hvalid⟩
  · exact ⟨_, rfl⟩

end Checks

section Completes

variable {s : State} (hs : s.wellFormed = true)
include hs

theorem execReadTable_completes (n : Handle) (index : Field24) : ∃ t, execReadTable n index s = .next t := by
  refine slotCommand_completes fun sl ⟨hntab, hsl, hvalid⟩ => ?_
  obtain ⟨D, hD, hlegal, -⟩ := ((wellFormed_iff.1 hs).1.slot _ sl hsl).table hvalid
  rw [withDefinition_some hD]
  split
  · exact ⟨_, rfl⟩
  · next hindex =>
    have hW : 2 ^ D.W ≤ 2 ^ s.cfg.wmax := Nat.pow_le_pow_right (by decide) (W_bounds_of_fieldsLegal hlegal).2
    rw [memRead_eq_some.2 ⟨hntab, (Nat.not_le.1 hindex).trans_le hW, rfl⟩]
    exact ⟨_, rfl⟩

theorem execDestroy_completes (d : Handle) : ∃ t, execDestroy d s = .next t := by
  refine decoderCommand_completes fun c uses => ?_
  obtain ⟨-, -, ⟨hntab, -, -⟩, -, -⟩ := bound_of_wellFormed hs uses
  exact ⟨_, if_neg (Nat.not_le.2 hntab)⟩

/-- A query of the bound definition finds it (R11, R187, R188). -/
theorem definitionQuery_completes (d : Handle) (value : Definition → Word) :
    ∃ t, (outsideWindow s <| withDecoder s d fun c =>
      withDefinition s c.defId fun D => answer s (value D) 0) = .next t := by
  refine decoderCommand_completes fun c uses => ?_
  obtain ⟨D, -, -, hD, -⟩ := bound_of_wellFormed hs uses
  exact ⟨_, withDefinition_some hD.definition _⟩

theorem execSample_completes (s0 s1 : SampleBits) : ∃ t, execSample s0 s1 s = .next t := by
  cases ha : s.sub.active with
  | false => exact ⟨_, insideWindow_closed ha _⟩
  | true =>
    obtain ⟨c, c', evs, -, -, hmore, hlast⟩ := sampleRunsOneFrame s s0 s1 hs ha
    by_cases hone : s.sub.remaining = 1
    · exact ⟨_, hlast hone⟩
    · exact ⟨_, hmore hone⟩

/-- Every command completes in a well-formed state (R225). -/
theorem exec_completes (i : Instr) : ∃ t, exec i s = .next t := by
  cases i with
  | buildLookup id =>
    refine outsideWindow_completes ?_
    split <;> exact ⟨_, rfl⟩
  | freeLookup n =>
    refine slotCommand_completes fun sl _ => ?_
    split <;> exact ⟨_, rfl⟩
  | init id =>
    refine outsideWindow_completes ?_
    split
    · exact ⟨_, rfl⟩
    split
    · exact ⟨_, rfl⟩
    split <;> exact ⟨_, rfl⟩
  | clear d => exact decoderCommand_completes fun _ _ => ⟨_, rfl⟩
  | destroy d => exact execDestroy_completes hs d
  | submit d count rate =>
    refine decoderCommand_completes fun c _ => ?_
    split
    · exact ⟨_, rfl⟩
    split <;> exact ⟨_, rfl⟩
  | sample s0 s1 => exact execSample_completes hs s0 s1
  | setPitch d pitch =>
    refine decoderCommand_completes fun c _ => ?_
    split <;> exact ⟨_, rfl⟩
  | getPitch d => exact decoderCommand_completes fun _ _ => ⟨_, rfl⟩
  | getPosition d =>
    refine decoderCommand_completes fun c _ => ?_
    split <;> exact ⟨_, rfl⟩
  | getAlive d => exact decoderCommand_completes fun _ _ => ⟨_, rfl⟩
  | getSafe d => exact definitionQuery_completes hs d _
  | getResolution d => exact definitionQuery_completes hs d _
  | readTable n index => exact execReadTable_completes hs n index
  | readReg d reg =>
    refine decoderCommand_completes fun c _ => ?_
    split <;> exact ⟨_, rfl⟩

end Completes

/-- Settles O57: the word is no command and raises, or its command completes, the port being no part of the invariant. -/
theorem wellFormedStepsComplete : Obligations.WellFormedStepsComplete := by
  intro s hs hport
  obtain ⟨w, rest, hp⟩ := List.exists_cons_of_ne_nil hport
  cases hd : decode w with
  | error e =>
    simp only [step, fetch, hp, hd]
    exact ⟨_, rfl⟩
  | ok i =>
    rw [stepRunsTheDecodedCommand s w rest i hp hd]
    exact exec_completes (s := { s with port := rest }) hs i

end Sys2Proof.Machine

/-! ### How a command ends (R221, R226) -/

namespace Sys2Proof.Machine

/-- The ways a command can end: an error, an OK response, nothing answered inside a window, or a stop of the model. Before
its end a command has answered nothing. -/
inductive Ending (s : State) (i : Instr) : Result → Prop
  /-- `raise` on the state before the command (R221) -/
  | error {e : Status} (he : e ≠ .ok) : Ending s i (raise s e)
  | ok {t : State} {a b : Word} (responses : t.responses = s.responses) : Ending s i (answer t a b)
  /-- a SUBMIT that opens a window, a SAMPLE that is not the last (R204, R205) -/
  | silent {t : State} (responses : t.responses = s.responses) (opened : t.sub.active = true)
      (submission : i.opcode = .submit ∨ i.opcode = .sample) : Ending s i (.next t)
  | fault (f : Fault) : Ending s i (.fault f)

/-- The one cause for which a reference is not taken: the limit on BUILD_LOOKUP references (R106). -/
theorem addReference_error {kind : RefKind} {sl : Slot} {e : Status} (h : addReference kind sl = .error e) :
    e = .resource := by
  cases kind with
  | ext =>
    by_cases hfull : sl.extRefs = 0xFFFF
    · rw [addReference_ext_full hfull] at h
      cases h
      rfl
    · rw [addReference_ext hfull] at h
      cases h
  | dec => cases h

/-- The causes for which `AcquireTable` raises (R106, R220). -/
theorem acquireTable_error {s : State} {kind : RefKind} {id : DefId} {e : Status}
    (h : acquireTable s kind id = .error e) : e = .unknownDef ∨ e = .resource ∨ e = .badDefinition := by
  unfold acquireTable at h
  split at h
  · cases h
    exact Or.inl rfl
  split at h
  · split at h
    · next hadd =>
      cases h
      exact Or.inr (Or.inl (addReference_error hadd))
    · cases h
  split at h
  · cases h
    exact Or.inr (Or.inr rfl)
  split at h
  · cases h
    exact Or.inr (Or.inl rfl)
  split at h
  · cases h
    exact Or.inr (Or.inr rfl)
  · cases h

theorem acquireTable_error_ne_ok {s : State} {kind : RefKind} {id : DefId} {e : Status}
    (h : acquireTable s kind id = .error e) : e ≠ .ok := by
  rcases acquireTable_error h with rfl | rfl | rfl <;> decide

namespace Ending

variable {s t : State} {i : Instr}

/-! #### Through the checks that come before the rest of a command -/

theorem of_outsideWindow {k : Result} (hk : Ending s i k) : Ending s i (outsideWindow s k) := by
  unfold outsideWindow
  split
  · exact .error (by decide)
  · exact hk

theorem of_decoder {d : Handle} {k : Context → Result} (hk : ∀ c, Ending s i (k c)) :
    Ending s i (outsideWindow s (withDecoder s d k)) := by
  apply of_outsideWindow
  unfold withDecoder
  split
  · split
    · exact hk _
    · exact .error (by decide)
  · exact .error (by decide)

theorem of_builtSlot {n : Handle} {k : Slot → Result} (hk : ∀ sl, Ending s i (k sl)) :
    Ending s i (outsideWindow s (withBuiltSlot s n k)) := by
  apply of_outsideWindow
  unfold withBuiltSlot
  split
  · exact hk _
  · exact .error (by decide)

theorem of_definition {id : DefId} {k : Definition → Result} (hk : ∀ D, Ending s i (k D)) :
    Ending s i (withDefinition s id k) := by
  unfold withDefinition
  split
  · exact hk _
  · exact .fault _

/-- The end of a frame is that of its SAMPLE: the last one of the window answers, any other leaves it open (R205). -/
theorem of_endFrame {s0 s1 : SampleBits} (ht : t.responses = s.responses) : Ending s (.sample s0 s1) (endFrame t) := by
  rcases endFrame_cases t with ⟨-, hend⟩ | ⟨-, hend⟩ <;> rw [hend]
  · exact .silent ht rfl (Or.inr rfl)
  · rw [← answer_eq]
    exact .ok ht

/-- Read off an ending where the model goes on: the error, the OK response, or neither. -/
theorem next_cases (h : Ending s i (.next t)) :
    (∃ e, e ≠ Status.ok ∧ t = s.refusing e)
    ∨ (∃ d0 d1, t.responses = s.responses ++ [{ status := .ok, data0 := d0, data1 := d1 }])
    ∨ (t.responses = s.responses ∧ t.sub.active = true ∧ (i.opcode = .submit ∨ i.opcode = .sample)) := by
  generalize hr : Host.Outcome.next t = r at h
  cases h with
  | error he =>
    cases hr
    exact Or.inl ⟨_, he, rfl⟩
  | ok responses =>
    cases hr
    exact Or.inr (Or.inl ⟨_, _, by rw [respond_responses, responses]⟩)
  | silent responses opened submission =>
    cases hr
    exact Or.inr (Or.inr ⟨responses, opened, submission⟩)
  | fault => cases hr

end Ending

/-! #### The commands -/

section Commands

variable {s : State}

theorem execBuildLookup_ending (id : DefId) : Ending s (.buildLookup id) (execBuildLookup id s) := by
  refine .of_outsideWindow ?_
  split
  · next herror => exact .error (acquireTable_error_ne_ok herror)
  · next acquired =>
    obtain ⟨-, -, -, -, responses, -⟩ := acquireTable_keeps acquired
    exact .ok responses

theorem execInit_ending (id : DefId) : Ending s (.init id) (execInit id s) := by
  refine .of_outsideWindow ?_
  split
  · exact .error (by decide)
  split
  · exact .error (by decide)
  split
  · next herror => exact .error (acquireTable_error_ne_ok herror)
  · next acquired =>
    obtain ⟨-, -, -, -, responses, -⟩ := acquireTable_keeps acquired
    exact .ok responses

theorem execSubmit_ending (d : Handle) (count rate : Field24) :
    Ending s (.submit d count rate) (execSubmit d count rate s) := by
  refine .of_decoder fun c => ?_
  split
  · exact .error (by decide)
  split
  · exact .ok rfl
  · exact .silent rfl rfl (Or.inl rfl)

theorem execSample_ending (s0 s1 : SampleBits) : Ending s (.sample s0 s1) (execSample s0 s1 s) := by
  unfold execSample insideWindow
  split
  · split
    · exact .fault _
    split
    · exact .fault _
    · exact .of_endFrame rfl
  · exact .error (by decide)

theorem execReadTable_ending (n : Handle) (index : Field24) :
    Ending s (.readTable n index) (execReadTable n index s) := by
  refine .of_builtSlot fun sl => .of_definition fun D => ?_
  split
  · exact .error (by decide)
  split
  · exact .fault _
  · exact .ok rfl

/-- Every command ends in one of these ways; none raises OK (R220, R221). -/
theorem exec_ending (i : Instr) : Ending s i (exec i s) := by
  cases i with
  | buildLookup id => exact execBuildLookup_ending id
  | freeLookup n =>
    refine .of_builtSlot fun sl => ?_
    split
    · exact .error (by decide)
    · exact .ok rfl
  | init id => exact execInit_ending id
  | clear d => exact .of_decoder fun _ => .ok rfl
  | destroy d =>
    refine .of_decoder fun c => ?_
    split
    · exact .fault _
    · exact .ok rfl
  | submit d count rate => exact execSubmit_ending d count rate
  | sample s0 s1 => exact execSample_ending s0 s1
  | setPitch d pitch =>
    refine .of_decoder fun c => ?_
    split
    · exact .error (by decide)
    · exact .ok rfl
  | getPitch d => exact .of_decoder fun _ => .ok rfl
  | getPosition d =>
    refine .of_decoder fun c => ?_
    split <;> exact .ok rfl
  | getAlive d => exact .of_decoder fun _ => .ok rfl
  | getSafe d => exact .of_decoder fun _ => .of_definition fun _ => .ok rfl
  | getResolution d => exact .of_decoder fun _ => .of_definition fun _ => .ok rfl
  | readTable n index => exact execReadTable_ending n index
  | readReg d reg =>
    refine .of_decoder fun c => ?_
    split
    · exact .error (by decide)
    · exact .ok rfl

end Commands

/-- Settles O10: every command ends in one of the ways `Ending` lists, and those that reach a next state are the three of
the statement. -/
theorem errorsChangeNothingElse : Obligations.ErrorsChangeNothingElse := fun i _ _ h =>
  (h ▸ exec_ending i).next_cases

end Sys2Proof.Machine

/-! ### The state at power-on -/

namespace Sys2Proof.Machine

section PowerOn

variable {cfg : Config} {t : Nat} {sl : Slot} {d : Context}

/-- Every slot at power-on is free (R240). -/
theorem powerOn_slot (h : (State.powerOn cfg).slots[t]? = some sl) : sl = Slot.free := by
  obtain ⟨-, -, hfree, -⟩ := powerOnLeavesEverythingFree cfg
  exact hfree sl (List.mem_of_getElem? h)

/-- No context is in use at power-on (R240). -/
theorem powerOn_context_inUse (h : d ∈ (State.powerOn cfg).ctxs) : d.inUse = false := by
  obtain ⟨-, -, -, hunused, -⟩ := powerOnLeavesEverythingFree cfg
  obtain ⟨hu, -⟩ := hunused d h
  exact hu

/-- A free slot has no references and claims no table (R21). -/
theorem slotSound_free (cfg : Config) (mem : Memory) (t : Nat) : SlotSound cfg mem t Slot.free :=
  ⟨rfl, fun hvalid => by cases hvalid⟩

/-- With legal parameters slots, table memory and contexts are sound at power-on: nothing is valid, listed or in use. -/
theorem blockSound_powerOn (legal : cfg.legal = true) :
    BlockSound cfg (State.powerOn cfg).slots (State.powerOn cfg).mem (State.powerOn cfg).ctxs where
  legal := legal
  slots_length := List.length_replicate
  ctxs_length := List.length_replicate
  mem_wf := wf_powerOn cfg
  mem_keys := fun _ hp => by cases hp
  distinct := fun _ _ _ _ hsl _ hvalid => by
    rw [powerOn_slot hsl] at hvalid
    cases hvalid
  slot := fun t _ hsl => powerOn_slot hsl ▸ slotSound_free cfg _ t
  context := fun _ hd hu => by
    rw [powerOn_context_inUse hd] at hu
    cases hu

/-- Every slot at power-on counts 0 references, and no context is bound to it (R21). -/
theorem counted_powerOn (cfg : Config) : Counted (State.powerOn cfg).slots (State.powerOn cfg).ctxs := by
  intro t sl hsl
  rw [powerOn_slot hsl]
  refine (List.countP_eq_zero.2 fun d hd => ?_).symm
  simp [binds, powerOn_context_inUse hd]

end PowerOn

/-- Settles O56: slots and contexts are free at power-on, and the window is closed. -/
theorem powerOnIsWellFormed : Obligations.PowerOnIsWellFormed := fun cfg legal =>
  wellFormed_iff.2 ⟨blockSound_powerOn legal, counted_powerOn cfg, .of_closed rfl⟩

end Sys2Proof.Machine
